-- ==== Sys2Proof/Word.lean ====
section
/-! DEFINITION. The value types of the metatron FSK codec core (rules R12, R16, R57). Bytes and nibbles are bit
vectors, because the spec slices and joins their bits. A Symbol (a natural in `[0, PV)`, R16, R71), a magnitude (R167), a
digit, a bin and a count are plain `Nat`: the spec only adds, divides and compares them, and no value in the block is
signed (R12). Their bounds depend on the configuration, so they stand in `Machine.State.Inv` and `Instr.wf`. -/

namespace Sys2Proof

/-- A byte of payload, tag, length or checksum (rule R57). -/
abbrev Byte := BitVec 8

/-- A nibble, "the unit of payload data carried per transmitted Symbol after differential decoding" (rule R16). -/
abbrev Nibble := BitVec 4

/-- A tone frequency in hertz (rule R7). PRESUMED to be rational (log entry 6). -/
abbrev Hertz := Rat

/-- The unit in which a duration is counted: the second, or a length of time that one build fixes, which need not be a
rational number of seconds. -/
inductive TimeUnit where
  | second
  | build
deriving DecidableEq, Repr

/-- A duration or an offset (rules R7, R84), as a count of units. `MARK_SECONDS` is a "positive real" (rule R7): a rational
one is counted in seconds, and any other one in the build's own unit (log entry 6). -/
structure Seconds where
  count : Rat
  unit  : TimeUnit
deriving DecidableEq, Repr

/-- The length of a unit in seconds, for a build whose own unit lasts `build` seconds. -/
def TimeUnit.value (build : ℝ) : TimeUnit → ℝ
  | .second => 1
  | .build => build

/-- The real number of seconds that a duration is. What holds for every `build` holds for every positive real. -/
def Seconds.value (build : ℝ) (s : Seconds) : ℝ := (s.count : ℝ) * s.unit.value build

end Sys2Proof
end

