-- ==== Sys2Proof/Config.lean ====
section
/-! DEFINITION. The implementation parameters of rule R7, the values derived from them (rule R8), the construction
checks of rule R282, and a legal configuration as a value together with a proof of the checks (rule R255). -/

namespace Sys2Proof

/-- One candidate tone of a FrequencySet: `FREQ[k][i]` and the bin `BIN[k][i]` that carries it (rule R7). -/
structure Tone where
  freq : Hertz
  bin  : Nat
deriving DecidableEq, Repr

/-- "an ordered list of candidate frequencies; one is chosen per Mark to represent one mixed-radix digit" (R16). -/
abbrev FrequencySet := List Tone

/-- `PICK_MODE`, the peak-picking policy (rules R7, R165). Having two constructors IS check 8 of rule R282. -/
inductive PickMode where
  | validated
  | unvalidated
deriving DecidableEq, Repr

/-- The parameters of rule R7, "fixed when the block is built". `N`, `SIZES`, `FREQ` and `BIN` are read off the
Alphabet, "the ordered list of FrequencySets" (R16); `TAG_LEN` is the length of `tag`. `FFT_SIZE` and `sampleRate`
lie outside the block (rule R7) and are not here. -/
structure Config where
  alphabet       : List FrequencySet
  numBins        : Nat
  magW           : Nat
  tag            : List Byte
  tagLenMax      : Nat
  pickMode       : PickMode
  cyclesPerMark  : Nat
  cycleThreshold : Nat
  markSeconds    : Seconds
deriving DecidableEq, Repr

namespace Config

/-- `N`, the number of FrequencySets (rule R7). -/
def n (c : Config) : Nat := c.alphabet.length

/-- `SIZES`, the radix of each FrequencySet (rule R7). -/
def sizes (c : Config) : List Nat := c.alphabet.map List.length

/-- `PV`, the source's `POSSIBLE_VALUES`, "product of all FrequencySet sizes" (rule R8). -/
def pv (c : Config) : Nat := c.sizes.prod

/-- `mult[k] = SIZES[0] * … * SIZES[k-1]`, the radix multiplier of digit `k` (rules R8, R100). -/
def mult (c : Config) (k : Nat) : Nat := (c.sizes.take k).prod

/-- `TAG_LEN`, the number of bytes in `TAG` (rule R7). -/
def tagLen (c : Config) : Nat := c.tag.length

/-- `ceil(log2 v)` for `v >= 1`. -/
def ceilLog2 (v : Nat) : Nat := if v ≤ 1 then 0 else Nat.log2 (v - 1) + 1

/-- `SW = ceil(log2(PV))`, the width of a Symbol (rule R8). -/
def sw (c : Config) : Nat := ceilLog2 c.pv

/-- `M(L) = 2*TAG_LEN + 2*L + 5`, the number of nibbles, and so of Marks, of a message (rules R8, R75). -/
def marks (c : Config) (payloadLen : Nat) : Nat := 2 * c.tagLen + 2 * payloadLen + 5

/-- `M_MAX = 2*TAG_LEN_MAX + 515` (rule R8). -/
def marksMax (c : Config) : Nat := 2 * c.tagLenMax + 515

/-- `SLOT_W = ceil(log2(M_MAX + 1))`, the width of the transmit slot counter (rule R8). -/
def slotW (c : Config) : Nat := ceilLog2 (c.marksMax + 1)

/-- The width of `stab_votes`, `ceil(log2(CYCLE_THRESHOLD + 1))` (rule R26). -/
def votesW (c : Config) : Nat := ceilLog2 (c.cycleThreshold + 1)

/-! The construction checks of rule R282, in its order. -/

/-- Check 1: `N >= 1`, and `SIZES[k] >= 1` for every `k`. -/
def alphabetOk (c : Config) : Bool := 1 ≤ c.n && c.sizes.all (1 ≤ ·)

/-- Check 2: `PV >= 2`, and by decision D12 `PV >= 17`. -/
def valuesOk (c : Config) : Bool := 17 ≤ c.pv

/-- Check 3: the frequencies within each set are distinct; each is positive (its range in rule R7, log entry 7). -/
def frequenciesOk (c : Config) : Bool :=
  c.alphabet.all fun set => decide (set.map Tone.freq).Nodup && set.all fun t => decide (0 < t.freq)

/-- Check 4: `NUM_BINS >= N`, every bin is in range, and the bins within each set are distinct. -/
def binsOk (c : Config) : Bool :=
  c.n ≤ c.numBins && c.alphabet.all fun set =>
    decide (set.map Tone.bin).Nodup && set.all fun t => t.bin < c.numBins

/-- Check 5: `2 <= CYCLE_THRESHOLD < CYCLES_PER_MARK`. -/
def thresholdOk (c : Config) : Bool := 2 ≤ c.cycleThreshold && c.cycleThreshold < c.cyclesPerMark

/-- Check 6: `1 <= TAG_LEN <= TAG_LEN_MAX`. -/
def tagOk (c : Config) : Bool := 1 ≤ c.tagLen && c.tagLen ≤ c.tagLenMax

/-- Check 7: `MARK_SECONDS > 0` and `MAG_W >= 1`. A unit of time is longer than 0, so the count decides. -/
def markOk (c : Config) : Bool := decide (0 < c.markSeconds.count) && 1 ≤ c.magW

end Config

/-- What a ConfigError records, "the failed check" (rule R251): the reason of the spec's `raise ConfigError(reason)`
(rule R14). Raised by construction only; no command can raise one (rule R255). Safe: the block does not exist. -/
inductive ConfigError where
  | alphabet
  | tooFewValues
  | frequencies
  | bins
  | threshold
  | tagLength
  | markOrWidth
deriving DecidableEq, Repr

/-- The first check of rule R282 that fails, in that rule's order; `none` for a legal configuration. -/
def Config.firstError (c : Config) : Option ConfigError :=
  if !c.alphabetOk then some .alphabet
  else if !c.valuesOk then some .tooFewValues
  else if !c.frequenciesOk then some .frequencies
  else if !c.binsOk then some .bins
  else if !c.thresholdOk then some .threshold
  else if !c.tagOk then some .tagLength
  else if !c.markOk then some .markOrWidth
  else none

/-- "A model represents a legal configuration as a configuration value together with a proof of the checks, so the
machine never meets an illegal one" (rule R255). -/
structure LegalConfig extends Config where
  legal : toConfig.firstError = none
deriving DecidableEq, Repr

/-- Construction (rules R255, R282): a configuration that fails a check cannot be built. -/
def Config.build (c : Config) : Except ConfigError LegalConfig :=
  match h : c.firstError with
  | none => .ok ⟨c, h⟩
  | some e => .error e

/-- The reference configuration (rule R9) with the bins of the test configuration (rule R10): the spec's own
`NUM_BINS`, `MAG_W` and `BIN`, "chosen only to make vectors concrete". DESIGN CHOICE (log entry 2, unsafe): the spec
leaves `FREQ` and `TAG_LEN_MAX` open; here a tone's frequency is 100 Hz times its bin, and `TAG_LEN_MAX` is 2, so that
`SLOT_W = 10` as in rule R8. `⟨1, 5, _, _⟩` is the rational 1/5 of `MARK_SECONDS = 0.2`. -/
def LegalConfig.reference : LegalConfig where
  alphabet :=
    [[⟨200, 2⟩, ⟨300, 3⟩, ⟨400, 4⟩, ⟨500, 5⟩, ⟨600, 6⟩],
     [⟨800, 8⟩, ⟨900, 9⟩, ⟨1000, 10⟩, ⟨1100, 11⟩]]
  numBins := 16
  magW := 8
  tag := [0x41, 0x42]
  tagLenMax := 2
  pickMode := .validated
  cyclesPerMark := 8
  cycleThreshold := 4
  markSeconds := ⟨⟨1, 5, by decide, by decide⟩, .second⟩
  legal := by decide

end Sys2Proof
end

