-- ==== Sys2Proof/Syntax.lean ====
section
/-! DEFINITION. The commands of the block (rules R78 to R81, `spec/opcode_table.json`), the presentation of a command
on the command port, and the reasons a presentation is not a command. -/

namespace Sys2Proof

/-- A command with its operands, one constructor per row of `spec/opcode_table.json`. The seven RESERVED rows keep the
bits of the word that their row leaves open; "any operands presented are ignored" (rule R234), so a reserved command
has no operand. -/
inductive Instr where
  /-- `00000000`, NOP (rule R231). -/
  | nop
  /-- `00000001`, RX_POLL with its snapshot `mag[0 .. NUM_BINS-1]` (rules R79, R232). -/
  | rxPoll (mag : List Nat)
  /-- `00000010`, TX_PLAY with `len` and `data[0 .. len-1]` (rules R79, R140). -/
  | txPlay (len : Byte) (data : List Byte)
  /-- `00000011`, RESERVED (rule R234). -/
  | reserved03
  /-- `000001xx`, RESERVED (rule R234). -/
  | reserved04 (x : BitVec 2)
  /-- `00001xxx`, RESERVED (rule R234). -/
  | reserved08 (x : BitVec 3)
  /-- `0001xxxx`, RESERVED (rule R234). -/
  | reserved10 (x : BitVec 4)
  /-- `001xxxxx`, RESERVED (rule R234). -/
  | reserved20 (x : BitVec 5)
  /-- `01xxxxxx`, RESERVED (rule R234). -/
  | reserved40 (x : BitVec 6)
  /-- `1xxxxxxx`, RESERVED (rule R234). -/
  | reserved80 (x : BitVec 7)
deriving DecidableEq, Repr

/-- One command as the host presents it: the 8-bit command word and the operand units that come with it, in the order
of rule R79. For RX_POLL a unit is one magnitude; for TX_PLAY the first unit is `len` and each later unit a data byte.
DESIGN CHOICE (log entry 4): the spec presents operands "together with the command word" and fixes no bus. -/
structure Presentation where
  word     : Byte
  operands : List Nat
deriving DecidableEq, Repr

/-- Why a presentation is no command of rule R79: its word is defined, but its operands are not the ones that the word
requires, so the hardware cannot receive it (rules R14, R81). -/
inductive DecodeError where
  /-- NOP with an operand. -/
  | operandsWithNop
  /-- RX_POLL without exactly `NUM_BINS` magnitudes. -/
  | snapshotLength
  /-- RX_POLL with a magnitude of more than `MAG_W` bits. -/
  | magnitudeWidth
  /-- TX_PLAY without a length. -/
  | lengthMissing
  /-- TX_PLAY with a length of more than 8 bits. -/
  | lengthWidth
  /-- TX_PLAY without exactly `len` data bytes. -/
  | dataLength
  /-- TX_PLAY with a data unit of more than 8 bits. -/
  | dataWidth
deriving DecidableEq, Repr

end Sys2Proof
end

