-- ==== Sys2Proof/WellFormed.lean ====
section
/-! DEFINITION. Which commands the hardware can receive (rules R79, R81): the checks on operands that the types of
`Instr` do not make. -/

namespace Sys2Proof

/-- RX_POLL carries exactly `NUM_BINS` magnitudes of `MAG_W` bits (rules R79, R81). -/
def snapshotOk (c : Config) (mag : List Nat) : Bool :=
  mag.length == c.numBins && mag.all (· < 2 ^ c.magW)

/-- TX_PLAY carries exactly `len` payload bytes (rules R79, R81). -/
def payloadOk (len : Byte) (data : List Byte) : Bool := data.length == len.toNat

/-- A command that the hardware of configuration `c` can receive. -/
def Instr.wf (c : Config) : Instr → Bool
  | .nop => true
  | .rxPoll mag => snapshotOk c mag
  | .txPlay len data => payloadOk len data
  | .reserved03 => true
  | .reserved04 _ => true
  | .reserved08 _ => true
  | .reserved10 _ => true
  | .reserved20 _ => true
  | .reserved40 _ => true
  | .reserved80 _ => true

end Sys2Proof
end

