-- ==== Sys2Proof/Decode.lean ====
section
/-! DEFINITION. The decoder of command presentations (rules R78 to R81, R230), total on every word and every list of
operand units and rejecting by name; then the encoder, from the same tables. -/

namespace Sys2Proof

/-- The 253 reserved words (rules R81, R234), sorted into the rows of `spec/opcode_table.json` by their highest set bit
(`0x03` is the one reserved word below `0x04`). Only called on reserved words. -/
def decodeReserved (w : Byte) : Instr :=
  if w.getLsbD 7 then .reserved80 (w.extractLsb' 0 7)
  else if w.getLsbD 6 then .reserved40 (w.extractLsb' 0 6)
  else if w.getLsbD 5 then .reserved20 (w.extractLsb' 0 5)
  else if w.getLsbD 4 then .reserved10 (w.extractLsb' 0 4)
  else if w.getLsbD 3 then .reserved08 (w.extractLsb' 0 3)
  else if w.getLsbD 2 then .reserved04 (w.extractLsb' 0 2)
  else .reserved03

/-- NOP has no operands (rule R79). -/
def decodeNop (operands : List Nat) : Except DecodeError Instr :=
  if operands.isEmpty then .ok .nop else .error .operandsWithNop

/-- RX_POLL carries exactly `NUM_BINS` unsigned magnitudes of `MAG_W` bits, `mag[0]` first (rules R79, R81). -/
def decodePoll (c : Config) (operands : List Nat) : Except DecodeError Instr :=
  if operands.length ≠ c.numBins then .error .snapshotLength
  else if operands.all (· < 2 ^ c.magW) then .ok (.rxPoll operands)
  else .error .magnitudeWidth

/-- TX_PLAY carries an 8-bit `len` first and then exactly `len` payload bytes, `data[0]` first (rules R79, R87). -/
def decodePlay : List Nat → Except DecodeError Instr
  | [] => .error .lengthMissing
  | len :: data =>
    if 256 ≤ len then .error .lengthWidth
    else if data.length ≠ len then .error .dataLength
    else if data.all (· < 256) then .ok (.txPlay (BitVec.ofNat 8 len) (data.map (BitVec.ofNat 8)))
    else .error .dataWidth

/-- Command dispatch (rule R230): the opcode is `cmd[3:0]`, and `cmd[7:4]` must be zero. -/
def decode (c : Config) (p : Presentation) : Except DecodeError Instr :=
  if p.word.extractLsb' 4 4 ≠ 0#4 then .ok (decodeReserved p.word)
  else if p.word.extractLsb' 0 4 = 0#4 then decodeNop p.operands
  else if p.word.extractLsb' 0 4 = 1#4 then decodePoll c p.operands
  else if p.word.extractLsb' 0 4 = 2#4 then decodePlay p.operands
  else .ok (decodeReserved p.word)

/-- The command word of each constructor (rule R80, the `encoding` column of `spec/opcode_table.json`). -/
def encodeWord : Instr → Byte
  | .nop => 0x00
  | .rxPoll _ => 0x01
  | .txPlay _ _ => 0x02
  | .reserved03 => 0x03
  | .reserved04 x => 0b000001#6 ++ x
  | .reserved08 x => 0b00001#5 ++ x
  | .reserved10 x => 0b0001#4 ++ x
  | .reserved20 x => 0b001#3 ++ x
  | .reserved40 x => 0b01#2 ++ x
  | .reserved80 x => 0b1#1 ++ x

/-- The operand units of each constructor, in the order of rule R79. -/
def encodeOperands : Instr → List Nat
  | .nop => []
  | .rxPoll mag => mag
  | .txPlay len data => len.toNat :: data.map BitVec.toNat
  | .reserved03 => []
  | .reserved04 _ => []
  | .reserved08 _ => []
  | .reserved10 _ => []
  | .reserved20 _ => []
  | .reserved40 _ => []
  | .reserved80 _ => []

/-- The encoder: the presentation of a well-formed command (rules R79, R80, R88). -/
def encode (i : Instr) : Presentation := ⟨encodeWord i, encodeOperands i⟩

/-- The operand units that a string of operand bits holds for a command word, lowest bits first: `NUM_BINS` units of
`MAG_W` bits for RX_POLL, an 8-bit `len` and then `len` bytes for TX_PLAY, none for any other word (rules R79, R81). -/
def operandUnits (c : Config) (word : Byte) (bits : Nat) : List Nat :=
  if word = 0x01 then (List.range c.numBins).map fun b => bits / 2 ^ (c.magW * b) % 2 ^ c.magW
  else if word = 0x02 then
    bits % 256 :: (List.range (bits % 256)).map fun j => bits / 2 ^ (8 * (j + 1)) % 256
  else []

/-- The presentation whose bits are `w`, numbered as `spec/opcode_table.json` numbers them: the command word is bits 7
to 0, its operand units follow from bit 8 on, and every bit from `nbits` on is zero. -/
def presentationOfBits (c : Config) (nbits w : Nat) : Presentation :=
  let bits := w % 2 ^ nbits
  let word : Byte := BitVec.ofNat 8 bits
  ⟨word, operandUnits c word (bits / 256)⟩

/-- The command the decoder reads from the bits `w`, in the reference configuration. -/
def decodeTableWord (nbits w : Nat) : Option Instr :=
  (decode LegalConfig.reference.toConfig (presentationOfBits LegalConfig.reference.toConfig nbits w)).toOption

end Sys2Proof
end

