-- ==== Sys2Proof/Machine/State.lean ====
section
/-! DEFINITION. The architectural state of rule R21, the response record of rule R82, the command port, and the
reasons a step can stop. -/

namespace Sys2Proof.Machine

/-- `frame_mode` (rules R28, R85). -/
inductive FrameMode where
  | waitTag
  | waitLength
  | waitContents
  | waitChecksum
deriving DecidableEq, Repr

/-- The source's ModulatorState: `tx_last` (R22) and `tx_slot` (R23). -/
structure ModulatorState where
  txLast : Nat
  txSlot : Nat
deriving DecidableEq, Repr

/-- The source's StabilizerState: `stab_active` (R24), `stab_cand` (R25) and `stab_votes` (R26). -/
structure StabilizerState where
  active : Option Nat
  cand   : Option Nat
  votes  : Nat
deriving DecidableEq, Repr

/-- The source's DemodulatorState: `rx_last` (R27). -/
structure DemodulatorState where
  rxLast : Nat
deriving DecidableEq, Repr

/-- The source's FrameState with the two values that outlive its buffer: `frame_mode` (R28), `frame_buf` (R29),
`frame_len` (R30) and `frame_payload` (R31). -/
structure FrameState where
  mode    : FrameMode
  buf     : List Nibble
  len     : Byte
  payload : List Byte
deriving DecidableEq, Repr

/-- The `status` of a response (rule R82). The codes 2 and 3 are never produced, so there are two constructors. -/
inductive Status where
  | ok
  | illegal
deriving DecidableEq, Repr

/-- The `event` of an RX_POLL response (rule R83; "A model's event type has three constructors", I21). -/
inductive EventCode where
  | none
  | message
  | corrupt
deriving DecidableEq, Repr

/-- The fields of an RX_POLL response after `status` (rule R82). -/
structure PollResponse where
  raw       : Option Nat
  confirmed : Option Nat
  real      : Option Nat
  nibble    : Option Nibble
  event     : EventCode
  msgLen    : Byte
  msgData   : List Byte
  active    : Option Nat
  rxLast    : Nat
  mode      : FrameMode
deriving DecidableEq, Repr

/-- A schedule record, one Mark (rule R84). -/
structure ScheduleRecord where
  slot   : Nat
  nibble : Nibble
  sym    : Nat
  digit  : List Nat
  freq   : List Hertz
  start  : Seconds
  stop   : Seconds
deriving DecidableEq, Repr

/-- The fields of a response after `status`, by command (rule R82). -/
inductive ResponseBody where
  | empty
  | poll (fields : PollResponse)
  | play (schedule : List ScheduleRecord)
deriving DecidableEq, Repr

/-- The response record that every command returns (rule R82). -/
structure Response where
  status : Status
  body   : ResponseBody
deriving DecidableEq, Repr

/-- What the outside world can do to the block at its one port. DESIGN CHOICE (log entry 4). -/
inductive PortEvent where
  /-- The host presents one command and waits for its response (rules R58, R59). -/
  | command (p : Presentation)
  /-- The host presents a second command before the first one's response, which rule R285 forbids. -/
  | overlap (first second : Presentation)
  /-- The reset input is asserted, between two commands (rule R280). -/
  | reset
deriving DecidableEq, Repr

/-- The state of the block. `mod`, `stab`, `demod` and `frame` are the ten elements of rule R21. The other three fields
are the model's own: `cfg` is the parameter of the step relation (rule R20), which no step writes (log entry 1); `port`
is what the outside world will present, oldest first (log entry 4); `response` is the response record of the command
just executed, an output that no command reads (log entry 3). -/
structure State where
  cfg      : LegalConfig
  mod      : ModulatorState
  stab     : StabilizerState
  demod    : DemodulatorState
  frame    : FrameState
  port     : List PortEvent
  response : Option Response
deriving DecidableEq, Repr

/-- The block of configuration `c` right after reset (rule R280), with nothing presented. -/
def State.built (c : LegalConfig) : State where
  cfg := c
  mod := ⟨0, 0⟩
  stab := ⟨none, none, 0⟩
  demod := ⟨0⟩
  frame := ⟨.waitTag, [], 0#8, []⟩
  port := []
  response := none

/-- The machine right after reset (rule R280), built with the reference configuration (log entry 2). -/
def State.reset : State := State.built LegalConfig.reference

/-- Why the machine stops. -/
inductive Fault where
  /-- Raised by `step` when the host overlaps commands: "the block's behaviour is not defined by any source, and a
  model should treat it as stuck" (rule R285, I8). Safe: no claim can rest on a state after it. -/
  | overlappingCommands
deriving DecidableEq, Repr

/-- Why the model gives no meaning to an input. -/
inductive Refusal where
  /-- A command without a meaning yet, by its mnemonic. No arm of `exec` raises it. Safe. -/
  | notModelled (mnemonic : String)
  /-- Raised by `step` when the operands presented are not the ones that the command word requires: an input "the
  hardware cannot receive" (rules R14, R81). Safe. -/
  | malformedCommand (e : DecodeError)
  /-- Raised by RX_POLL's and TX_PLAY's meanings on a term that is not well formed, which no decoding yields. Safe. -/
  | illFormedOperands
  /-- Raised by the stand-alone `CODEC_DEC` on a digit `d[k] >= SIZES[k]` (rule R103). Safe. -/
  | digitOutOfRange
  /-- Raised by the stand-alone `CODEC_DEC` on a list of more or fewer than `N` digits (log entry 9). Safe. -/
  | digitCount
deriving DecidableEq, Repr

end Sys2Proof.Machine
end

