-- ==== Sys2Proof/Machine/Operands.lean ====
section
/-! DEFINITION. Operand forms: how bytes split into nibbles and nibbles assemble into bytes, the tag's nibble sequence,
and the read of one magnitude of a snapshot. -/

namespace Sys2Proof.Machine

/-- `b[7:4]` (rule R76). -/
def highNibble (b : Byte) : Nibble := b.extractLsb' 4 4

/-- `b[3:0]` (rule R76). -/
def lowNibble (b : Byte) : Nibble := b.extractLsb' 0 4

/-- A byte as its nibble pair, high first (rules R52, R76). -/
def byteNibbles (b : Byte) : List Nibble := [highNibble b, lowNibble b]

/-- `(hi << 4) | lo` (rules R52, R77). -/
def joinNibbles (hi lo : Nibble) : Byte := (hi.setWidth 8 <<< 4) ||| lo.setWidth 8

/-- A byte sequence as nibbles, in order (rule R53). -/
def bytesNibbles (p : List Byte) : List Nibble := p.flatMap byteNibbles

/-- Consecutive nibbles paired into bytes, the first nibble of each pair as the high nibble (rules R53, R56). Callers
pass an even number of nibbles; a last unpaired one would be dropped. -/
def pairBytes : List Nibble → List Byte
  | hi :: lo :: rest => joinNibbles hi lo :: pairBytes rest
  | _ => []

/-- `TAGN`, the tag's nibble sequence (rules R8, R206). -/
def tagNibbles (c : Config) : List Nibble := bytesNibbles c.tag

/-- `mag[b]` (rules R79, R167). A well-formed snapshot has every bin `b < NUM_BINS`. -/
def magAt (mag : List Nat) (b : Nat) : Nat := mag.getD b 0

end Sys2Proof.Machine
end

