-- ==== Sys2Proof/Machine/Differential.lean ====
section
/-! DEFINITION. The differential encoder and decoder (rules R120 to R125). -/

namespace Sys2Proof.Machine

/-- The Symbol of `DIFF_ENC(v)`: `(tx_last + v + 1) mod PV` (rule R120). -/
def diffEncSymbol (c : Config) (txLast : Nat) (v : Nibble) : Nat := (txLast + v.toNat + 1) % c.pv

/-- `DIFF_ENC(v)` (rule R120): the transmitted Symbol, and `tx_last` set to it. -/
def diffEnc (c : Config) (m : ModulatorState) (v : Nibble) : Nat × ModulatorState :=
  (diffEncSymbol c m.txLast v, { m with txLast := diffEncSymbol c m.txLast v })

/-- The realValue of `DIFF_DEC(value)` (rule R121). -/
def diffDecReal (c : Config) (rxLast value : Nat) : Nat :=
  let adj := if rxLast ≥ value then value + c.pv else value
  adj - rxLast - 1

/-- `DIFF_DEC(value)` (rule R121): the realValue, and `rx_last` set to `value`. -/
def diffDec (c : Config) (d : DemodulatorState) (value : Nat) : Nat × DemodulatorState :=
  (diffDecReal c d.rxLast value, ⟨value⟩)

/-- The nibble that reaches framing, `real mod 16` (rule R122). -/
def realNibble (real : Nat) : Nibble := BitVec.ofNat 4 real

end Sys2Proof.Machine
end

