-- ==== Sys2Proof/Machine/Framing.lean ====
section
/-! DEFINITION. The framing state machine and the XOR checksum (rules R200 to R212). -/

namespace Sys2Proof.Machine

/-- The result of `FRAME_STEP`: `NONE`, `MESSAGE(L, p)` with `L = len(p)`, or `CORRUPT`, which carries nothing
(rules R200, R211). -/
inductive FrameEvent where
  | none
  | message (payload : List Byte)
  | corrupt
deriving DecidableEq, Repr

/-- `CHECKSUM(p)`, the XOR of a byte sequence, 0 for the empty one (rule R205). -/
def checksum (p : List Byte) : Byte := p.foldl (· ^^^ ·) 0#8

/-- `FRAME_TAG`'s window after nibble `n`: append, and "if the window exceeds that size, drop the oldest nibble"
(rule R201). -/
def slideWindow (c : Config) (buf : List Nibble) (n : Nibble) : List Nibble :=
  if (buf ++ [n]).length > 2 * c.tagLen then (buf ++ [n]).tail else buf ++ [n]

/-- `FRAME_TAG(n)`, mode `WAIT_TAG` (rules R201, R207). -/
def frameTag (c : Config) (f : FrameState) (n : Nibble) : FrameState × FrameEvent :=
  if slideWindow c f.buf n = tagNibbles c then ({ f with mode := .waitLength, buf := [] }, .none)
  else ({ f with buf := slideWindow c f.buf n }, .none)

/-- `FRAME_LENGTH(n)`, mode `WAIT_LENGTH` (rule R202). `L = 0` goes straight to `WAIT_CHECKSUM` (decision D20). -/
def frameLength (f : FrameState) (n : Nibble) : FrameState × FrameEvent :=
  match f.buf ++ [n] with
  | [hi, lo] =>
    if joinNibbles hi lo = 0#8 then (⟨.waitChecksum, [], joinNibbles hi lo, []⟩, .none)
    else ({ f with mode := .waitContents, buf := [], len := joinNibbles hi lo }, .none)
  | buf => ({ f with buf := buf }, .none)

/-- `FRAME_CONTENTS(n)`, mode `WAIT_CONTENTS` (rule R203). -/
def frameContents (f : FrameState) (n : Nibble) : FrameState × FrameEvent :=
  if (f.buf ++ [n]).length = 2 * f.len.toNat then
    ({ f with mode := .waitChecksum, buf := [], payload := pairBytes (f.buf ++ [n]) }, .none)
  else ({ f with buf := f.buf ++ [n] }, .none)

/-- The state after either verdict: `WAIT_TAG` with an empty window, and `frame_len` and `frame_payload` cleared
(rule R204, decision D29). -/
def FrameState.waiting : FrameState := ⟨.waitTag, [], 0#8, []⟩

/-- `FRAME_CHECKSUM(n)`, mode `WAIT_CHECKSUM` (rule R204). -/
def frameChecksum (f : FrameState) (n : Nibble) : FrameState × FrameEvent :=
  match f.buf ++ [n] with
  | [hi, lo] =>
    (FrameState.waiting,
      if joinNibbles hi lo = checksum f.payload then .message f.payload else .corrupt)
  | buf => ({ f with buf := buf }, .none)

/-- `FRAME_STEP(n)`: consume one nibble (rule R200). -/
def frameStep (c : Config) (f : FrameState) (n : Nibble) : FrameState × FrameEvent :=
  match f.mode with
  | .waitTag => frameTag c f n
  | .waitLength => frameLength f n
  | .waitContents => frameContents f n
  | .waitChecksum => frameChecksum f n

/-- The `event` field of the response (rules R83, R232). -/
def FrameEvent.code : FrameEvent → EventCode
  | .none => .none
  | .message _ => .message
  | .corrupt => .corrupt

/-- The `msg_len` field of the response: `L`, else 0 (rules R82, R232). -/
def FrameEvent.msgLen : FrameEvent → Byte
  | .message p => BitVec.ofNat 8 p.length
  | .none => 0#8
  | .corrupt => 0#8

/-- The `msg_data` field of the response: the emitted payload, else `[]` (rules R82, R232). -/
def FrameEvent.msgData : FrameEvent → List Byte
  | .message p => p
  | .none => []
  | .corrupt => []

end Sys2Proof.Machine
end

