-- ==== Sys2Proof/Machine/Ops.lean ====
section
/-! DEFINITION. The named operations over the state. The block has no register file, no memory and no trap mechanism
(rules R32, R50, R250), so these are the writes of the four component records, the return of a response, the report of
a reserved command, which stands where another machine takes an exception (R256), and the reset. -/

namespace Sys2Proof.Machine

/-- The outcome of one command. -/
abbrev Result := Host.Outcome State Fault Refusal

/-- Write ModulatorState; only TX_PLAY does (rules R21, R35). -/
def State.withMod (s : State) (m : ModulatorState) : State := { s with mod := m }

/-- Write StabilizerState; only STAB_STEP does (rules R21, R35). -/
def State.withStab (s : State) (st : StabilizerState) : State := { s with stab := st }

/-- Write DemodulatorState; only DIFF_DEC does (rules R21, R35). -/
def State.withDemod (s : State) (d : DemodulatorState) : State := { s with demod := d }

/-- Write FrameState; only FRAME_STEP does (rules R21, R35). -/
def State.withFrame (s : State) (f : FrameState) : State := { s with frame := f }

/-- Take the head of the port away, leaving `rest` to be presented. -/
def State.withPort (s : State) (rest : List PortEvent) : State := { s with port := rest }

/-- Return one response record (rule R82). -/
def State.respond (s : State) (status : Status) (body : ResponseBody) : State :=
  { s with response := some ⟨status, body⟩ }

/-- IllegalCommand: `status = ILLEGAL`, "no event is emitted and no schedule is produced", no state written (rules R234,
R256). The one report of a rejected command; each RESERVED row of the opcode table has a meaning that calls it. -/
def reportIllegal (s : State) : Result := .next (s.respond .illegal .empty)

/-- Asserting the reset input "sets every state element to the reset value" and "produces no response and no event"
(rule R280); it "neither reads nor changes" the configuration (rule R281), nor what the host will present next. -/
def State.resetBlock (s : State) : State := { State.built s.cfg with port := s.port }

/-- "Between commands it holds its state indefinitely" (rule R268), and events "are not latched" (rule R235): with
nothing presented, every state element is held and no response is returned. -/
def State.idle (s : State) : State := { s with response := none }

end Sys2Proof.Machine
end

