-- ==== Sys2Proof/Machine/Codec.lean ====
section
/-! DEFINITION. The symbol codec (rules R100 to R105): combinational, no state. -/

namespace Sys2Proof.Machine

/-- `FREQ[k][d]` of one FrequencySet. A digit of rule R71 is always in range. -/
def toneFreq (set : FrequencySet) (d : Nat) : Hertz := (set.map Tone.freq).getD d 0

/-- The loop of `CODEC_ENC` (rule R101) over the FrequencySets in declared order. -/
def encodeSets : List FrequencySet → Nat → List (Hertz × Nat)
  | [], _ => []
  | set :: rest, x => (toneFreq set (x % set.length), x % set.length) :: encodeSets rest (x / set.length)

/-- `CODEC_ENC(s)`: one frequency and one digit index per FrequencySet (rule R101). -/
def codecEnc (c : Config) (s : Nat) : List (Hertz × Nat) := encodeSets c.alphabet s

/-- `d[0]*mult[0] + … + d[N-1]*mult[N-1]` (rules R71, R102). -/
def weighDigits (c : Config) (d : List Nat) : Nat :=
  ((List.range c.n).map fun k => d.getD k 0 * c.mult k).sum

/-- One digit for each set, each within its set (rule R102). -/
def digitsInRange (c : Config) (d : List Nat) : Bool :=
  (List.range c.n).all fun k => d.getD k 0 < c.sizes.getD k 0

/-- `CODEC_DEC(d)` on its own (rules R102, R103): it "must `refuse(DigitOutOfRange)`. It must not compute a value". -/
def codecDec (c : Config) (d : List Nat) : Except Refusal Nat :=
  if d.length ≠ c.n then .error .digitCount
  else if digitsInRange c d then .ok (weighDigits c d)
  else .error .digitOutOfRange

end Sys2Proof.Machine
end

