-- ==== Sys2Proof/Machine/Picker.lean ====
section
/-! DEFINITION. The spectral peak picker (rules R160 to R168): combinational, no state. `AMBIGUOUS` is `none`
(rule R86). -/

namespace Sys2Proof.Machine

/-- The pairs of one set, numbered `k`, that own bin `b` (rule R161). -/
def ownersInSet (k b : Nat) (set : FrequencySet) : List (Nat × Nat) :=
  set.zipIdx.filterMap fun ti => if ti.1.bin = b then some (k, ti.2) else none

/-- `owners(b)`, the pairs `(k, i)` with `BIN[k][i] = b` (rule R161). -/
def owners (c : Config) (b : Nat) : List (Nat × Nat) :=
  c.alphabet.zipIdx.flatMap fun sk => ownersInSet sk.2 b sk.1

/-- Bin `a` ranks no later than bin `b`: magnitude descending, then bin index ascending (rule R163, decision D16). -/
abbrev ranksBefore (mag : List Nat) (a b : Nat) : Prop :=
  magAt mag b < magAt mag a ∨ (magAt mag a = magAt mag b ∧ a ≤ b)

/-- `order`, the bins `0 .. NUM_BINS-1` sorted by rank (rules R162, R163). -/
def rankedBins (c : Config) (mag : List Nat) : List Nat :=
  (List.range c.numBins).insertionSort (ranksBefore mag)

/-- The loop of `PICK_VALIDATED` over the selected bins (rule R162), with `seen` and `acc`. -/
def collectDigits (c : Config) : List Nat → List Nat → Nat → Option Nat
  | [], _, acc => some acc
  | b :: sel, seen, acc =>
    match owners c b with
    | [(k, i)] => if k ∈ seen then none else collectDigits c sel (k :: seen) (acc + i * c.mult k)
    | _ => none

/-- `PICK_VALIDATED(mag)`: the top `N` bins, one owned bin per set, or `AMBIGUOUS` (rule R162). -/
def pickValidated (c : Config) (mag : List Nat) : Option Nat :=
  collectDigits c ((rankedBins c mag).take c.n) [] 0

/-- `mag[BIN[k][i]]` for the tone `i` of one set (rule R164). -/
def toneMag (mag : List Nat) (set : FrequencySet) (i : Nat) : Nat :=
  magAt mag ((set.map Tone.bin).getD i 0)

/-- The inner loop of `PICK_UNVALIDATED` over one set: a strictly greater magnitude wins, so "lowest index wins a tie"
(rule R164, decision D17). -/
def bestDigit (mag : List Nat) (set : FrequencySet) : Nat :=
  (List.range' 1 (set.length - 1)).foldl
    (fun best i => if toneMag mag set best < toneMag mag set i then i else best) 0

/-- `PICK_UNVALIDATED(mag)`: "independently, for each FrequencySet, pick the frequency with the highest magnitude"
(rule R164). -/
def pickUnvalidated (c : Config) (mag : List Nat) : Nat :=
  weighDigits c (c.alphabet.map (bestDigit mag))

/-- `PICK(mag)`, the raw symbol of one poll, by `PICK_MODE` (rule R160). -/
def pick (c : Config) (mag : List Nat) : Option Nat :=
  match c.pickMode with
  | .validated => pickValidated c mag
  | .unvalidated => some (pickUnvalidated c mag)

end Sys2Proof.Machine
end

