-- ==== Sys2Proof/Machine/Stabilizer.lean ====
section
/-! DEFINITION. The symbol stabilizer (rules R180 to R190). -/

namespace Sys2Proof.Machine

/-- Clauses 1 and 2: the candidate is cleared, `stab_active` is kept (rules R181, R182). -/
def StabilizerState.clearCandidate (st : StabilizerState) : StabilizerState :=
  { st with cand := none, votes := 0 }

/-- Clause 3 at the threshold: the transition to `r` is confirmed (rule R183). -/
def confirmSymbol (r : Nat) : StabilizerState := ⟨some r, none, 0⟩

/-- Clause 3 (rule R183): one more vote for the candidate `r`. -/
def voteCandidate (c : Config) (st : StabilizerState) (r : Nat) : StabilizerState × Option Nat :=
  if st.votes + 1 = c.cycleThreshold then (confirmSymbol r, some r)
  else ({ st with votes := st.votes + 1 }, none)

/-- Clause 4 (rule R184): a new candidate with one vote. -/
def newCandidate (st : StabilizerState) (r : Nat) : StabilizerState × Option Nat :=
  ({ st with cand := some r, votes := 1 }, none)

/-- `STAB_STEP(r)` (rule R180): the clauses are tried in order, and exactly one applies. The second component is the
confirmed Symbol, if any. -/
def stabStep (c : Config) (st : StabilizerState) : Option Nat → StabilizerState × Option Nat
  | none => (st.clearCandidate, none)
  | some r =>
    if st.active = some r then (st.clearCandidate, none)
    else if st.cand = some r then voteCandidate c st r
    else newCandidate st r

end Sys2Proof.Machine
end

