-- ==== Sys2Proof/Machine/Commands.lean ====
section
/-! DEFINITION. The commands NOP, RX_POLL and RESERVED (rules R231, R232, R234). -/

namespace Sys2Proof.Machine

/-- NOP (rule R231): `respond(status = OK)`. -/
def execNop (s : State) : Result := .next (s.respond .ok .empty)

/-- The response of an RX_POLL (rules R82, R232); `active`, `rx_last` and `mode` are read after the command. -/
def pollResponse (s : State) (raw confirmed : Option Nat) (real : Option Nat) (nibble : Option Nibble)
    (ev : FrameEvent) : PollResponse where
  raw := raw
  confirmed := confirmed
  real := real
  nibble := nibble
  event := ev.code
  msgLen := ev.msgLen
  msgData := ev.msgData
  active := s.stab.active
  rxLast := s.demod.rxLast
  mode := s.frame.mode

/-- A poll that confirms nothing runs neither DIFF_DEC nor FRAME_STEP (rule R185). -/
def finishUnconfirmed (raw : Option Nat) (s : State) : State :=
  s.respond .ok (.poll (pollResponse s raw none none none .none))

/-- A poll that confirms `r` runs DIFF_DEC, truncates, and runs FRAME_STEP, in that order (rules R185, R232). -/
def finishConfirmed (raw : Option Nat) (r : Nat) (s : State) : State :=
  let dec := diffDec s.cfg.toConfig s.demod r
  let nib := realNibble dec.1
  let fr := frameStep s.cfg.toConfig s.frame nib
  let s' := (s.withDemod dec.2).withFrame fr.1
  s'.respond .ok (.poll (pollResponse s' raw (some r) (some dec.1) (some nib) fr.2))

/-- The receive pipeline after the picker: stabilize the raw symbol, and finish the poll (rule R232). -/
def receive (raw : Option Nat) (s : State) : State :=
  let stabbed := stabStep s.cfg.toConfig s.stab raw
  match stabbed.2 with
  | none => finishUnconfirmed raw (s.withStab stabbed.1)
  | some r => finishConfirmed raw r (s.withStab stabbed.1)

/-- RX_POLL (rule R232): one poll through the receive pipeline. -/
def execRxPoll (mag : List Nat) (s : State) : Result :=
  if snapshotOk s.cfg.toConfig mag then .next (receive (pick s.cfg.toConfig mag) s)
  else .refused .illFormedOperands

/-! RESERVED (rule R234), one meaning per row of `spec/opcode_table.json`. -/

/-- RESERVED `0x03` (rule R234). -/
def execReserved03 (s : State) : Result := reportIllegal s

/-- RESERVED `0x04` to `0x07` (rule R234). -/
def execReserved04 (s : State) : Result := reportIllegal s

/-- RESERVED `0x08` to `0x0F` (rule R234). -/
def execReserved08 (s : State) : Result := reportIllegal s

/-- RESERVED `0x10` to `0x1F` (rule R234). -/
def execReserved10 (s : State) : Result := reportIllegal s

/-- RESERVED `0x20` to `0x3F` (rule R234). -/
def execReserved20 (s : State) : Result := reportIllegal s

/-- RESERVED `0x40` to `0x7F` (rule R234). -/
def execReserved40 (s : State) : Result := reportIllegal s

/-- RESERVED `0x80` to `0xFF` (rule R234). -/
def execReserved80 (s : State) : Result := reportIllegal s

end Sys2Proof.Machine
end

