-- ==== Sys2Proof/Machine/Modulator.lean ====
section
/-! DEFINITION. The Modulator: the command TX_PLAY (rules R140 to R147). -/

namespace Sys2Proof.Machine

/-- The nibble stream of one message: resync nibble, tag, length, payload, checksum (rules R74, R140). -/
def messageStream (c : Config) (len : Byte) (data : List Byte) : List Nibble :=
  0#4 :: tagNibbles c ++ byteNibbles len ++ bytesNibbles data ++ byteNibbles (checksum data)

/-- `i * MARK_SECONDS` (rule R84), exactly: `i` times the count, in the same unit. -/
def markTime (c : Config) (i : Nat) : Seconds where
  count := mkRat (i * c.markSeconds.count.num) c.markSeconds.count.den
  unit := c.markSeconds.unit

/-- The schedule record of the Mark in slot `i` that sends nibble `n` as Symbol `s` (rules R84, R140). -/
def scheduleRecord (c : Config) (i : Nat) (n : Nibble) (s : Nat) : ScheduleRecord where
  slot := i
  nibble := n
  sym := s
  digit := (codecEnc c s).map Prod.snd
  freq := (codecEnc c s).map Prod.fst
  start := markTime c i
  stop := markTime c (i + 1)

/-- One turn of TX_PLAY's loop (rule R140): encode the nibble, record its Mark, advance `tx_slot`. -/
def scheduleMark (c : Config) (m : ModulatorState) (n : Nibble) : ScheduleRecord × ModulatorState :=
  let e := diffEnc c m n
  (scheduleRecord c m.txSlot n e.1, { e.2 with txSlot := m.txSlot + 1 })

/-- TX_PLAY's loop over the stream, in stream order (rule R140). -/
def scheduleMarks (c : Config) : ModulatorState → List Nibble → List ScheduleRecord × ModulatorState
  | m, [] => ([], m)
  | m, n :: rest =>
    let one := scheduleMark c m n
    let more := scheduleMarks c one.2 rest
    (one.1 :: more.1, more.2)

/-- The schedule and the ModulatorState of one message, which start afresh from `tx_last = 0`, `tx_slot = 0`
(rules R140, R146). -/
def playMessage (c : Config) (len : Byte) (data : List Byte) : List ScheduleRecord × ModulatorState :=
  scheduleMarks c ⟨0, 0⟩ (messageStream c len data)

/-- TX_PLAY (rule R140): the whole schedule is handed over in the response, and the command returns at once (R141). -/
def execTxPlay (len : Byte) (data : List Byte) (s : State) : Result :=
  if payloadOk len data then
    let played := playMessage s.cfg.toConfig len data
    .next ((s.withMod played.2).respond .ok (.play played.1))
  else .refused .illFormedOperands

end Sys2Proof.Machine
end

