-- ==== Sys2Proof/Machine/Dispatch.lean ====
section
/-! DEFINITION. Command dispatch: one arm per constructor of Instr (rule R230). -/

namespace Sys2Proof.Machine

def exec (i : Instr) (s : State) : Host.Outcome State Fault Refusal :=
  match i with
  | .nop => Sys2Proof.Machine.execNop s
  | .rxPoll mag => Sys2Proof.Machine.execRxPoll mag s
  | .txPlay len data => Sys2Proof.Machine.execTxPlay len data s
  | .reserved03 => Sys2Proof.Machine.execReserved03 s
  | .reserved04 _ => Sys2Proof.Machine.execReserved04 s
  | .reserved08 _ => Sys2Proof.Machine.execReserved08 s
  | .reserved10 _ => Sys2Proof.Machine.execReserved10 s
  | .reserved20 _ => Sys2Proof.Machine.execReserved20 s
  | .reserved40 _ => Sys2Proof.Machine.execReserved40 s
  | .reserved80 _ => Sys2Proof.Machine.execReserved80 s

end Sys2Proof.Machine
end

