-- ==== Sys2Proof/Machine/Fetch.lean ====
section
/-! DEFINITION. What the block does with what is presented at its port (rules R58, R59, R230, R280, R285). -/

namespace Sys2Proof.Machine

/-- One presented command: decoded and run, or refused where its operands are not the ones its word requires. -/
def runPresented (p : Presentation) (s : State) : Result :=
  match decode s.cfg.toConfig p with
  | .ok i => exec i s
  | .error e => .refused (.malformedCommand e)

/-- The block holds its state while nothing is presented (R268), runs one command to completion and "then accepts the
next" (R230), is stuck on overlapped commands (R285), or is reset (R280). -/
def acceptPort (s : State) : Result :=
  match s.port with
  | [] => .next s.idle
  | .command p :: rest => runPresented p (s.withPort rest)
  | .overlap _ _ :: _ => .fault .overlappingCommands
  | .reset :: rest => .next (s.withPort rest).resetBlock

/-- `s` with the command `p` presented next, before everything already on its port. -/
def State.present (s : State) (p : Presentation) : State := s.withPort (.command p :: s.port)

end Sys2Proof.Machine
end

