-- ==== Sys2Proof/Machine/Step.lean ====
section
/-! DEFINITION. One step of the machine, and the state whose next step runs a given command word. -/

namespace Sys2Proof.Machine

/-- One atomic step (rule R58). -/
def step (s : State) : Host.Outcome State Fault Refusal := acceptPort s

/-- `s` with the command whose bits are `w` presented next, so that `step` runs exactly it. -/
def State.withFetchWord (s : State) (nbits w : Nat) : State :=
  s.present (presentationOfBits s.cfg.toConfig nbits w)

end Sys2Proof.Machine
end

