-- ==== Sys2Proof/Machine/Flags.lean ====
section
/-! DEFINITION. The block has no condition-code or flag register (rule R34). "The status indicators a host can observe"
are the valid bit of an option field, the `status` code and the `event` code; these are their encodings, with that of
`frame_mode`. Each is recomputed by every command and holds nothing between commands. -/

namespace Sys2Proof.Machine

/-- `OK` (0) or `ILLEGAL` (1), in a 2-bit field (rule R82). -/
def Status.code : Status → BitVec 2
  | .ok => 0
  | .illegal => 1

/-- `NONE` (0), `MESSAGE` (1) or `CORRUPT` (2) (rule R83). -/
def EventCode.code : EventCode → BitVec 2
  | .none => 0
  | .message => 1
  | .corrupt => 2

/-- `WAIT_TAG` = 0, `WAIT_LENGTH` = 1, `WAIT_CONTENTS` = 2, `WAIT_CHECKSUM` = 3 (rule R85). -/
def FrameMode.code : FrameMode → BitVec 2
  | .waitTag => 0
  | .waitLength => 1
  | .waitContents => 2
  | .waitChecksum => 3

/-- An option Symbol: a valid bit followed by `SW` value bits, all zero for `none` (rule R86). -/
def optionSymbolBits (c : Config) : Option Nat → BitVec (1 + c.sw)
  | none => 0#1 ++ 0#c.sw
  | some s => 1#1 ++ BitVec.ofNat c.sw s

end Sys2Proof.Machine
end

