-- ==== Sys2Proof/Safety.lean ====
section
/-! DEFINITION. The terms in which claims are made: the invariants between commands (rules R21, R188, R189, R210), runs
of one component over a sequence of inputs, and the transcript of a session, the responses the host reads in order. -/

namespace Sys2Proof.Machine

/-- The ranges of ModulatorState (rules R21 to R23). -/
abbrev ModulatorState.Inv (c : Config) (m : ModulatorState) : Prop :=
  m.txLast < c.pv ∧ m.txSlot ≤ c.marksMax

/-- The stabilizer invariants (a), (b) and (c) of rule R188, and the ranges of rules R24 and R25. -/
abbrev StabilizerState.Inv (c : Config) (st : StabilizerState) : Prop :=
  st.votes ≤ c.cycleThreshold - 1 ∧ (st.cand = none ↔ st.votes = 0) ∧
  (∀ x ∈ st.cand, st.active ≠ some x) ∧ (∀ x ∈ st.cand, x < c.pv) ∧ (∀ x ∈ st.active, x < c.pv)

/-- "Stabilizer and decoder agree" (rule R189), and the range of rule R27. -/
abbrev DemodulatorState.Inv (c : Config) (st : StabilizerState) (d : DemodulatorState) : Prop :=
  ((st.active = none ∧ d.rxLast = 0) ∨ st.active = some d.rxLast) ∧ d.rxLast < c.pv

/-- The framing invariants of rule R210. -/
abbrev FrameState.Inv (c : Config) (f : FrameState) : Prop :=
  (f.mode = .waitTag → f.buf.length ≤ 2 * c.tagLen ∧ f.len = 0#8 ∧ f.payload = []) ∧
  (f.mode = .waitLength → f.buf.length ≤ 1 ∧ f.len = 0#8 ∧ f.payload = []) ∧
  (f.mode = .waitContents → 1 ≤ f.len.toNat ∧ f.buf.length ≤ 2 * f.len.toNat - 1 ∧ f.payload = []) ∧
  (f.mode = .waitChecksum → f.buf.length ≤ 1 ∧ f.payload.length = f.len.toNat)

/-- What holds "in every state reachable from reset, between commands" (rules R21, R188, R189, R210). -/
abbrev State.Inv (s : State) : Prop :=
  s.mod.Inv s.cfg.toConfig ∧ s.stab.Inv s.cfg.toConfig ∧ s.demod.Inv s.cfg.toConfig s.stab ∧
  s.frame.Inv s.cfg.toConfig

/-- The stabilizer over a run of polls: the state after it, and what each poll confirmed (rule R186). -/
def stabRun (c : Config) : StabilizerState → List (Option Nat) → StabilizerState × List (Option Nat)
  | st, [] => (st, [])
  | st, r :: rs => ((stabRun c (stabStep c st r).1 rs).1, (stabStep c st r).2 :: (stabRun c (stabStep c st r).1 rs).2)

/-- The framing machine over a sequence of nibbles: the state after it, and the event of each nibble (rule R211). -/
def frameRun (c : Config) : FrameState → List Nibble → FrameState × List FrameEvent
  | f, [] => (f, [])
  | f, n :: ns => ((frameRun c (frameStep c f n).1 ns).1, (frameStep c f n).2 :: (frameRun c (frameStep c f n).1 ns).2)

/-- The differential decoder over a sequence of confirmed Symbols, from `rx_last` (rule R125). -/
def decodeAll (c : Config) : Nat → List Nat → List Nat
  | _, [] => []
  | rxLast, r :: rs => diffDecReal c rxLast r :: decodeAll c r rs

/-- The Symbols of a schedule, in slot order. -/
def symbolsOf (sched : List ScheduleRecord) : List Nat := sched.map ScheduleRecord.sym

/-- `k` steps of a session: the state after them, and the responses the host reads, in order (rule R259). -/
def transcript : Nat → State → Option (State × List Response)
  | 0, s => some (s, [])
  | k + 1, s =>
    match step s with
    | .next t => (transcript k t).map fun r => (r.1, t.response.toList ++ r.2)
    | .fault _ => none
    | .refused _ => none

/-- What one response sends to the decoded-output sink: its `event`, `msg_len` and `msg_data`, unless the event is
`NONE` (rules R82, R265). -/
def Response.toSink (r : Response) : Option (EventCode × Byte × List Byte) :=
  match r.body with
  | .poll p => if p.event = .none then none else some (p.event, p.msgLen, p.msgData)
  | .empty => none
  | .play _ => none

/-- What a transcript sends to the decoded-output sink, in order. -/
def sinkEvents (rs : List Response) : List (EventCode × Byte × List Byte) := rs.filterMap Response.toSink

end Sys2Proof.Machine
end

