-- ==== Sys2Proof/Certificates/Slice0/Obligations.lean ====
section
/-! DEFINITION. The statements about the model, one definition each. A rule of the spec that the spec itself marks as its
own decision or derivation is named in the docstring with that decision; a convention of the model is named with its
log entry. -/

open Sys2Proof Sys2Proof.Machine

/-! ### Encodings and dispatch -/

/-- Rule R80, decision D2: presentations written out from the opcode table, one or more for each row. -/
def Obligations.CommandWordsDecodeAsTheTableSays : Prop :=
  let c := LegalConfig.reference.toConfig
  decode c ⟨0b00000000#8, []⟩ = .ok .nop ∧
  decode c ⟨0b00000001#8, [0, 1, 2, 3, 4, 5, 6, 7, 8, 9, 10, 11, 12, 13, 14, 255]⟩ =
    .ok (.rxPoll [0, 1, 2, 3, 4, 5, 6, 7, 8, 9, 10, 11, 12, 13, 14, 255]) ∧
  decode c ⟨0b00000010#8, [2, 0x68, 0x69]⟩ = .ok (.txPlay 2 [0x68, 0x69]) ∧
  decode c ⟨0b00000010#8, [0]⟩ = .ok (.txPlay 0 []) ∧
  decode c ⟨0b00000011#8, []⟩ = .ok .reserved03 ∧
  decode c ⟨0b00000110#8, []⟩ = .ok (.reserved04 0b10) ∧
  decode c ⟨0b00001111#8, []⟩ = .ok (.reserved08 0b111) ∧
  decode c ⟨0b00010001#8, [7, 7]⟩ = .ok (.reserved10 0b0001) ∧
  decode c ⟨0b00110100#8, []⟩ = .ok (.reserved20 0b10100) ∧
  decode c ⟨0b01000011#8, []⟩ = .ok (.reserved40 0b000011) ∧
  decode c ⟨0b10000010#8, [1, 2]⟩ = .ok (.reserved80 0b0000010)

/-- Rules R79 to R81, decision D2: no bit of an encoding is dropped, for every command the hardware can receive. -/
def Obligations.DecodeOfEncodeIsTheCommand : Prop :=
  ∀ (c : LegalConfig) (i : Instr), i.wf c.toConfig = true → decode c.toConfig (encode i) = .ok i

/-- Rules R79 to R81, R234, decisions D2 and D3: what decodes is well formed and keeps the word it came from. For the three
defined words it keeps the operands too, which for surplus operands (a NOP with operands among them) rests on the model's
refusal of them (log entry 5); a reserved word's operands "are ignored". -/
def Obligations.DecodedCommandsEncodeBack : Prop :=
  ∀ (c : LegalConfig) (p : Presentation) (i : Instr), decode c.toConfig p = .ok i →
    i.wf c.toConfig = true ∧ (encode i).word = p.word ∧ (p.word.toNat < 3 → encode i = p)

/-- Rules R81, R234, decision D3: of the 256 command words, every word but `0x00`, `0x01` and `0x02` returns
`status = ILLEGAL` whatever operands come with it, and changes no state. -/
def Obligations.UndefinedWordsReportIllegalAndChangeNothing : Prop :=
  ∀ (s : State) (p : Presentation) (rest : List PortEvent), s.port = .command p :: rest → 3 ≤ p.word.toNat →
    step s = .next { s with port := rest, response := some ⟨.illegal, .empty⟩ }

/-- Rules R58, R230, with the model's port (log entry 4): a presented command that decodes to `i` is run as `exec i`
says, on the state without that presentation. -/
def Obligations.StepRunsTheDecodedCommand : Prop :=
  ∀ (s : State) (p : Presentation) (rest : List PortEvent) (i : Instr), s.port = .command p :: rest →
    decode s.cfg.toConfig p = .ok i → step s = exec i { s with port := rest }

/-- Rules R79, R81, with the model's refusal of what the hardware cannot receive (log entry 5). -/
def Obligations.MalformedPresentationsAreRefused : Prop :=
  ∀ (s : State) (p : Presentation) (rest : List PortEvent), s.port = .command p :: rest →
    ((p.word = 0x00 ∧ p.operands ≠ []) ∨
     (p.word = 0x01 ∧ ¬ (p.operands.length = s.cfg.numBins ∧ ∀ m ∈ p.operands, m < 2 ^ s.cfg.magW)) ∨
     (p.word = 0x02 ∧ ¬ ∃ (len : Byte) (data : List Byte),
        data.length = len.toNat ∧ p.operands = len.toNat :: data.map BitVec.toNat)) →
    ∃ e, step s = .refused (.malformedCommand e)

/-- Rule R285, decision D30 (treatment `stuck` of I8), with the model's port (log entry 4). -/
def Obligations.OverlappedCommandsAreStuck : Prop :=
  ∀ (s : State) (p q : Presentation) (rest : List PortEvent), s.port = .overlap p q :: rest →
    step s = .fault .overlappingCommands

/-- Rules R235, R268, decisions D25 and D39, with the model's response (log entry 3) and its idle step on an empty port
(log entry 4): with nothing presented every element is held, and no response is returned. -/
def Obligations.IdleBlockHoldsItsState : Prop :=
  ∀ s : State, s.port = [] → step s = .next { s with response := none }

/-- Rules R82, R83 and R85, decisions D4, D5 and D6: the codes, no two alike, and the codes never produced. -/
def Obligations.CodesOfStatusEventAndMode : Prop :=
  (Status.ok.code = 0 ∧ Status.illegal.code = 1 ∧ ∀ x : Status, x.code ≠ 2 ∧ x.code ≠ 3) ∧
  (EventCode.none.code = 0 ∧ EventCode.message.code = 1 ∧ EventCode.corrupt.code = 2 ∧
    ∀ e : EventCode, e.code ≠ 3) ∧
  (FrameMode.waitTag.code = 0 ∧ FrameMode.waitLength.code = 1 ∧ FrameMode.waitContents.code = 2 ∧
    FrameMode.waitChecksum.code = 3)

/-- Rule R86, decision D7: `none` is all zero bits, the top bit is the valid bit, the low `SW` bits are the Symbol, and
no two option Symbols have one encoding. -/
def Obligations.OptionSymbolBitsSeparateEveryValue : Prop :=
  ∀ (c : LegalConfig) (a b : Option Nat), (∀ x ∈ a, x < c.pv) → (∀ x ∈ b, x < c.pv) →
    (optionSymbolBits c.toConfig a = optionSymbolBits c.toConfig b → a = b) ∧
    optionSymbolBits c.toConfig none = 0 ∧
    (∀ x ∈ a, (optionSymbolBits c.toConfig a).toNat = 2 ^ c.sw + x)

/-- Rules R52, R76, R77: a byte is its nibble pair, high first; `(hi << 4) | lo` is `16*hi + lo`; the two are inverse. -/
def Obligations.BytesSplitAndJoinHighNibbleFirst : Prop :=
  (∀ b : Byte, byteNibbles b = [highNibble b, lowNibble b] ∧
    (highNibble b).toNat = b.toNat / 16 ∧ (lowNibble b).toNat = b.toNat % 16 ∧
    joinNibbles (highNibble b) (lowNibble b) = b) ∧
  (∀ hi lo : Nibble, (joinNibbles hi lo).toNat = 16 * hi.toNat + lo.toNat)

/-! ### Reset and construction -/

/-- Rule R280, decision D24: the reset input, between two commands, sets each of the ten elements to its reset value; it
produces no response and no event (with the model's port and response, log entries 3 and 4). -/
def Obligations.ResetInputRestoresEveryElement : Prop :=
  ∀ (s : State) (rest : List PortEvent), s.port = .reset :: rest →
    step s = .next
      { cfg := s.cfg
        mod := { txLast := 0, txSlot := 0 }
        stab := { active := none, cand := none, votes := 0 }
        demod := { rxLast := 0 }
        frame := { mode := .waitTag, buf := [], len := 0#8, payload := [] }
        port := rest
        response := none }

/-- Rules R188, R189, R210 ("They hold at reset"): the invariants hold of every block of a legal configuration right
after reset, the model's `State.reset` among them. -/
def Obligations.TheInvariantsHoldAtReset : Prop :=
  (∀ c : LegalConfig, (State.built c).Inv) ∧ State.reset.Inv

/-- Rules R255, R282, decisions D12 to D14, D23 and D35: a configuration can be built exactly when every check holds.
That frequencies are positive is their range in rule R7 (log entry 7). `MARK_SECONDS` is a real, positive for a build's unit
of any length (log entry 6). -/
def Obligations.ConstructionAcceptsExactlyLegalConfigurations : Prop :=
  ∀ c : Config, (∃ l : LegalConfig, c.build = .ok l ∧ l.toConfig = c) ↔
    (1 ≤ c.alphabet.length ∧ ∀ set ∈ c.alphabet, 1 ≤ set.length) ∧
    17 ≤ (c.alphabet.map List.length).prod ∧
    (∀ set ∈ c.alphabet, (set.Pairwise fun t u => t.freq ≠ u.freq) ∧ ∀ t ∈ set, 0 < t.freq) ∧
    (c.alphabet.length ≤ c.numBins ∧
      ∀ set ∈ c.alphabet, (set.Pairwise fun t u => t.bin ≠ u.bin) ∧ ∀ t ∈ set, t.bin < c.numBins) ∧
    (2 ≤ c.cycleThreshold ∧ c.cycleThreshold < c.cyclesPerMark) ∧
    (1 ≤ c.tag.length ∧ c.tag.length ≤ c.tagLenMax) ∧
    ((∀ build : ℝ, 0 < build → 0 < c.markSeconds.value build) ∧ 1 ≤ c.magW)

/-- Rules R20, R281, for the configuration as the model holds it (log entry 1): no command and no reset changes it. -/
def Obligations.NoStepChangesTheConfiguration : Prop :=
  ∀ s t : State, step s = .next t → t.cfg = s.cfg

/-- Rules R8, R22 to R26, R84, decision D37: the widths of the state elements hold every value they take. -/
def Obligations.DeclaredWidthsHoldEveryValue : Prop :=
  ∀ s : State, s.Inv →
    s.mod.txLast < 2 ^ s.cfg.sw ∧ s.mod.txSlot < 2 ^ s.cfg.slotW ∧ s.demod.rxLast < 2 ^ s.cfg.sw ∧
    (∀ x ∈ s.stab.active, x < 2 ^ s.cfg.sw) ∧ (∀ x ∈ s.stab.cand, x < 2 ^ s.cfg.sw) ∧
    s.stab.votes + 1 < 2 ^ s.cfg.votesW ∧ s.frame.payload.length < 2 ^ 8

/-! ### Symbol codec -/

/-- Rules R71, R101: digit `k` of `CODEC_ENC(s)` is `(s div mult[k]) mod SIZES[k]`, and the frequency is `FREQ[k][d[k]]`,
for every `s` (above `PV` too: "the loop would ignore `s div PV`"). -/
def Obligations.CodecEncGivesMixedRadixDigits : Prop :=
  ∀ (c : LegalConfig) (s : Nat),
    codecEnc c.toConfig s = (List.range c.alphabet.length).map fun k =>
      let set := c.alphabet.getD k []
      let d := s / ((c.alphabet.take k).map List.length).prod % set.length
      ((set.map Tone.freq).getD d 0, d)

/-- Rules R102, R103, decision D32 (the number of digits, log entry 9): on one in-range digit per set `CODEC_DEC`
returns `d[0]*mult[0] + …`, which lies in `[0, PV)`; any other digits are refused. -/
def Obligations.CodecDecSumsInRangeDigitsAndRefusesOthers : Prop :=
  ∀ (c : LegalConfig) (d : List Nat),
    (d.length = c.n → (∀ k, k < c.n → d.getD k 0 < c.sizes.getD k 0) →
      ∃ r, codecDec c.toConfig d = .ok r ∧ r < c.pv ∧
        r = ((List.range c.n).map fun k => d.getD k 0 * (c.sizes.take k).prod).sum) ∧
    (d.length = c.n → (∃ k, k < c.n ∧ c.sizes.getD k 0 ≤ d.getD k 0) →
      codecDec c.toConfig d = .error .digitOutOfRange) ∧
    (d.length ≠ c.n → codecDec c.toConfig d = .error .digitCount)

/-- Rules R104, R105 (derived from R101 and R102): `CODEC_ENC` and `CODEC_DEC` are inverse bijections. -/
def Obligations.CodecIsABijection : Prop :=
  ∀ c : LegalConfig,
    (∀ s : Nat, s < c.pv → codecDec c.toConfig ((codecEnc c.toConfig s).map Prod.snd) = .ok s) ∧
    (∀ (d : List Nat) (s : Nat), codecDec c.toConfig d = .ok s →
      s < c.pv ∧ (codecEnc c.toConfig s).map Prod.snd = d)

/-- Rule R105 (derived): "two different Symbols always differ in at least one digit and therefore in at least one
tone". -/
def Obligations.DifferentSymbolsSoundDifferentTones : Prop :=
  ∀ (c : LegalConfig) (s r : Nat), s < c.pv → r < c.pv → s ≠ r →
    ∃ k, k < c.n ∧ ((codecEnc c.toConfig s).map Prod.fst)[k]? ≠ ((codecEnc c.toConfig r).map Prod.fst)[k]?

/-! ### Differential encoder and decoder -/

/-- Rule R120, with its corner cases: the wrap at `tx_last = PV - 1`. -/
def Obligations.DiffEncAddsTheNibblePlusOne : Prop :=
  ∀ (c : LegalConfig) (m : ModulatorState) (v : Nibble),
    diffEnc c.toConfig m v =
      ((m.txLast + v.toNat + 1) % c.pv, { m with txLast := (m.txLast + v.toNat + 1) % c.pv }) ∧
    (m.txLast = c.pv - 1 → v = 0#4 → (diffEnc c.toConfig m v).1 = 0)

/-- Rule R121: the two cases of the subtraction, which "never goes below zero", and `rx_last` set to the Symbol. -/
def Obligations.DiffDecSubtractsTheLastSymbol : Prop :=
  ∀ (c : LegalConfig) (d : DemodulatorState) (value : Nat), d.rxLast < c.pv → value < c.pv →
    (diffDec c.toConfig d value).2.rxLast = value ∧
    (d.rxLast < value → (diffDec c.toConfig d value).1 + d.rxLast + 1 = value) ∧
    (value ≤ d.rxLast → (diffDec c.toConfig d value).1 + d.rxLast + 1 = value + c.pv)

/-- Rules R122, R123, R125 (R123 and R125 derived, R122 with decision D19): the closed form of the realValue, its range,
and the nibble that reaches framing. -/
def Obligations.RealValueClosedFormAndNibble : Prop :=
  ∀ (c : LegalConfig) (rxLast value : Nat), rxLast < c.pv → value < c.pv →
    diffDecReal c.toConfig rxLast value = (value + c.pv - rxLast - 1) % c.pv ∧
    diffDecReal c.toConfig rxLast value < c.pv ∧
    (realNibble (diffDecReal c.toConfig rxLast value)).toNat = diffDecReal c.toConfig rxLast value % 16 ∧
    (diffDecReal c.toConfig rxLast value = c.pv - 1 ↔ value = rxLast)

/-- Rule R124 (derived, decision D12): `DIFF_ENC` never returns its previous `tx_last`. -/
def Obligations.DiffEncNeverRepeatsASymbol : Prop :=
  ∀ (c : LegalConfig) (m : ModulatorState) (v : Nibble), m.txLast < c.pv →
    (diffEnc c.toConfig m v).1 ≠ m.txLast ∧ (diffEnc c.toConfig m v).1 < c.pv

/-- Rule R125 (derived), the source's round-trip property: a receiver in step recovers every nibble of a schedule. -/
def Obligations.DifferentialRoundTripRecoversTheNibbles : Prop :=
  ∀ (c : LegalConfig) (m : ModulatorState) (ns : List Nibble), m.txLast < c.pv →
    decodeAll c.toConfig m.txLast (symbolsOf (scheduleMarks c.toConfig m ns).1) = ns.map BitVec.toNat

/-! ### Commands: completion, ownership, isolation -/

/-- Rule R231, decision D2: NOP responds OK and writes no state. -/
def Obligations.NopRespondsOkAndWritesNoState : Prop :=
  ∀ s : State, exec .nop s = .next { s with response := some ⟨.ok, .empty⟩ }

/-- Rule R234, decision D3: each RESERVED row responds ILLEGAL and writes no state. -/
def Obligations.ReservedRowsRespondIllegalAndWriteNoState : Prop :=
  ∀ (s : State) (x2 : BitVec 2) (x3 : BitVec 3) (x4 : BitVec 4) (x5 : BitVec 5) (x6 : BitVec 6) (x7 : BitVec 7),
    ∀ i ∈ [Instr.reserved03, .reserved04 x2, .reserved08 x3, .reserved10 x4, .reserved20 x5, .reserved40 x6,
      .reserved80 x7],
      exec i s = .next { s with response := some ⟨.illegal, .empty⟩ }

/-- Rules R82, R250, R257, R260, decisions D3, D4, D25 and D38: every command the hardware can receive completes in
every state with one response; the status is ILLEGAL for a reserved word alone. -/
def Obligations.EveryReceivableCommandCompletes : Prop :=
  ∀ (i : Instr) (s : State), i.wf s.cfg.toConfig = true →
    ∃ t r, exec i s = .next t ∧ t.response = some r ∧
      (r.status = .ok ↔ (i = .nop ∨ (∃ mag, i = .rxPoll mag) ∨ ∃ len data, i = .txPlay len data))

/-- Rule R35, with the owners of rule R21's table: only TX_PLAY writes ModulatorState; only RX_POLL, through STAB_STEP,
writes StabilizerState; only a confirmation, through DIFF_DEC and FRAME_STEP, writes the other two. -/
def Obligations.EveryElementIsWrittenOnlyByItsOwner : Prop :=
  ∀ (i : Instr) (s t : State), exec i s = .next t →
    (t.mod ≠ s.mod → ∃ len data, i = .txPlay len data) ∧
    (t.stab ≠ s.stab → ∃ mag, i = .rxPoll mag ∧
      t.stab = (stabStep s.cfg.toConfig s.stab (pick s.cfg.toConfig mag)).1) ∧
    (t.demod ≠ s.demod → ∃ mag r, i = .rxPoll mag ∧
      (stabStep s.cfg.toConfig s.stab (pick s.cfg.toConfig mag)).2 = some r ∧
      t.demod = (diffDec s.cfg.toConfig s.demod r).2) ∧
    (t.frame ≠ s.frame → ∃ mag r, i = .rxPoll mag ∧
      (stabStep s.cfg.toConfig s.stab (pick s.cfg.toConfig mag)).2 = some r ∧
      t.frame = (frameStep s.cfg.toConfig s.frame (realNibble (diffDec s.cfg.toConfig s.demod r).1)).1)

/-- Rule R36: "No TX_PLAY reads or writes receive state, and no RX_POLL reads or writes transmit state." Not reading is
said by running the command from two states that differ only there. -/
def Obligations.TransmitAndReceiveStateAreDisjoint : Prop :=
  (∀ (s t : State) (mag : List Nat) (m : ModulatorState), exec (.rxPoll mag) s = .next t →
    t.mod = s.mod ∧ exec (.rxPoll mag) { s with mod := m } = .next { t with mod := m }) ∧
  (∀ (s t : State) (len : Byte) (data : List Byte) (st : StabilizerState) (d : DemodulatorState) (f : FrameState),
    exec (.txPlay len data) s = .next t →
    t.stab = s.stab ∧ t.demod = s.demod ∧ t.frame = s.frame ∧
    exec (.txPlay len data) { s with stab := st, demod := d, frame := f } =
      .next { t with stab := st, demod := d, frame := f })

/-! ### TX_PLAY -/

/-- Rule R74, position by position; each nibble takes one Mark and is differentially encoded into its Symbol, the Symbol
before it (0 before the first) plus the nibble plus 1, mod `PV`, so differential decoding gives the stream back. -/
def Obligations.MessageStreamHasTheWireLayout : Prop :=
  ∀ (c : LegalConfig) (len : Byte) (data : List Byte), data.length = len.toNat →
    let st := messageStream c.toConfig len data
    let t := c.tag.length
    let l := len.toNat
    st.length = 2 * t + 2 * l + 5 ∧
    st[0]? = some 0#4 ∧
    (∀ j b, c.tag[j]? = some b → st[2 * j + 1]? = some (highNibble b) ∧ st[2 * j + 2]? = some (lowNibble b)) ∧
    st[2 * t + 1]? = some (highNibble len) ∧ st[2 * t + 2]? = some (lowNibble len) ∧
    (∀ j b, data[j]? = some b →
      st[2 * t + 3 + 2 * j]? = some (highNibble b) ∧ st[2 * t + 4 + 2 * j]? = some (lowNibble b)) ∧
    st[2 * t + 3 + 2 * l]? = some (highNibble (checksum data)) ∧
    st[2 * t + 4 + 2 * l]? = some (lowNibble (checksum data)) ∧
    let sched := (playMessage c.toConfig len data).1
    sched.map ScheduleRecord.nibble = st ∧
    (∀ i r, sched[i]? = some r →
      r.sym = ((0 :: symbolsOf sched).getD i 0 + r.nibble.toNat + 1) % c.pv) ∧
    decodeAll c.toConfig 0 (symbolsOf sched) = st.map BitVec.toNat

/-- Rules R84, R140, decisions D4 and D31: TX_PLAY completes in every state and hands over one record per nibble of the
stream; the Symbol of slot `i` is the sum of `nibble + 1` over the slots up to `i`, reduced mod `PV`.
The Mark times are those of rule R84 for a build's own unit of time of any length (log entry 6). -/
def Obligations.TxPlayReturnsTheWholeSchedule : Prop :=
  ∀ (s : State) (len : Byte) (data : List Byte), data.length = len.toNat →
    let c := s.cfg.toConfig
    let st := messageStream c len data
    let sym := fun i => ((st.take (i + 1)).map fun n => n.toNat + 1).sum % c.pv
    ∃ t sched, exec (.txPlay len data) s = .next t ∧ t.response = some ⟨.ok, .play sched⟩ ∧
      sched.length = c.marks len.toNat ∧
      ∀ i r, sched[i]? = some r →
        r.slot = i ∧ st[i]? = some r.nibble ∧ r.sym = sym i ∧
        r.digit = ((List.range c.n).map fun k => sym i / c.mult k % c.sizes.getD k 0) ∧
        r.freq = (r.digit.zipIdx.map fun dk => toneFreq (c.alphabet.getD dk.2 []) dk.1) ∧
        ∀ build : ℝ, r.start.value build = i * c.markSeconds.value build ∧
          r.stop.value build = (i + 1) * c.markSeconds.value build

/-- Rule R145 (derived from R140): `tx_last` holds the Symbol of the last Mark and `tx_slot` holds `M(L)`; nothing else
but the response changes. -/
def Obligations.TxPlayLeavesLastSymbolAndMarkCount : Prop :=
  ∀ (s : State) (len : Byte) (data : List Byte), data.length = len.toNat →
    ∃ t sched, exec (.txPlay len data) s = .next t ∧ t.response = some ⟨.ok, .play sched⟩ ∧
      (symbolsOf sched).getLast? = some t.mod.txLast ∧ t.mod.txSlot = s.cfg.marks len.toNat ∧
      t = { s with mod := t.mod, response := t.response }

/-- Rule R143 (derived from R124): consecutive Symbols of a schedule differ. -/
def Obligations.ConsecutiveSymbolsOfAScheduleDiffer : Prop :=
  ∀ (c : LegalConfig) (len : Byte) (data : List Byte),
    (symbolsOf (playMessage c.toConfig len data).1).IsChain (· ≠ ·)

/-- Rule R144 (derived from R120 and R140): "The first Symbol of every message is `1`", and the second is
`(2 + TAGN[0]) mod PV`. -/
def Obligations.FirstSymbolsOfEveryMessage : Prop :=
  ∀ (c : LegalConfig) (len : Byte) (data : List Byte), ∃ n rest,
    (tagNibbles c.toConfig)[0]? = some n ∧
    symbolsOf (playMessage c.toConfig len data).1 = 1 :: (2 + n.toNat) % c.pv :: rest

/-! ### Spectral peak picker -/

/-- Rules R161 to R163, decision D16 for ties: `PICK_VALIDATED` returns `r` exactly when one tone of each set, in a bin
no other set owns, outranks every bin not chosen, and `r` is the Symbol of those digits. Otherwise it is `AMBIGUOUS`. -/
def Obligations.ValidatedPickIsTheOneClearTonePerSet : Prop :=
  ∀ (c : LegalConfig) (mag : List Nat) (r : Nat),
    let bin := fun k i => ((c.alphabet.getD k []).map Tone.bin).getD i 0
    pickValidated c.toConfig mag = some r ↔
      ∃ d : List Nat, d.length = c.n ∧ (∀ k, k < c.n → d.getD k 0 < c.sizes.getD k 0) ∧
        (∀ k, k < c.n → ∀ k' i, k' < c.n → i < c.sizes.getD k' 0 → bin k' i = bin k (d.getD k 0) → k' = k) ∧
        (∀ k, k < c.n → ∀ b, b < c.numBins → (∀ k', k' < c.n → b ≠ bin k' (d.getD k' 0)) →
          magAt mag b < magAt mag (bin k (d.getD k 0)) ∨
          (magAt mag b = magAt mag (bin k (d.getD k 0)) ∧ bin k (d.getD k 0) < b)) ∧
        r = ((List.range c.n).map fun k => d.getD k 0 * c.mult k).sum

/-- Rule R164, decision D17 for ties: `PICK_UNVALIDATED` takes in each set the strongest tone, and among equals the one
of lowest index. -/
def Obligations.UnvalidatedPickIsTheStrongestTonePerSet : Prop :=
  ∀ (c : LegalConfig) (mag : List Nat), ∃ d : List Nat, d.length = c.n ∧
    (∀ k, k < c.n →
      let set := c.alphabet.getD k []
      d.getD k 0 < set.length ∧
      (∀ i, i < set.length → toneMag mag set i ≤ toneMag mag set (d.getD k 0)) ∧
      (∀ i, i < d.getD k 0 → toneMag mag set i < toneMag mag set (d.getD k 0))) ∧
    pickUnvalidated c.toConfig mag = ((List.range c.n).map fun k => d.getD k 0 * c.mult k).sum

/-- Rules R160, R164, R168 (R168 derived): `PICK_MODE` selects the policy, unvalidated mode never reports `AMBIGUOUS`,
and every Symbol picked lies in `[0, PV)`. -/
def Obligations.PickFollowsItsModeAndStaysInRange : Prop :=
  ∀ (c : LegalConfig) (mag : List Nat),
    (c.pickMode = .validated → pick c.toConfig mag = pickValidated c.toConfig mag) ∧
    (c.pickMode = .unvalidated → pick c.toConfig mag = some (pickUnvalidated c.toConfig mag)) ∧
    (∀ r, pick c.toConfig mag = some r → r < c.pv)

/-- Rule R167 (derived): "Only the order of magnitudes matters to either mode, so any monotone rescaling of a snapshot
gives the same result." -/
def Obligations.PickDependsOnlyOnTheOrderOfMagnitudes : Prop :=
  ∀ (c : LegalConfig) (mag : List Nat) (f : Nat → Nat), snapshotOk c.toConfig mag = true → StrictMono f →
    pick c.toConfig (mag.map f) = pick c.toConfig mag

/-! ### RX_POLL: the stabilizer's clauses, confirmation, response -/

/-- Rule R181, clause 1. -/
def Obligations.AmbiguousPollClearsTheCandidate : Prop :=
  ∀ (s : State) (mag : List Nat), snapshotOk s.cfg.toConfig mag = true → pick s.cfg.toConfig mag = none →
    (stabStep s.cfg.toConfig s.stab none).2 = none ∧
    ∃ t, exec (.rxPoll mag) s = .next t ∧
      t = { s with stab := { active := s.stab.active, cand := none, votes := 0 }, response := t.response }

/-- Rule R182, clause 2. -/
def Obligations.SteadyPollClearsTheCandidate : Prop :=
  ∀ (s : State) (mag : List Nat) (r : Nat), snapshotOk s.cfg.toConfig mag = true →
    pick s.cfg.toConfig mag = some r → s.stab.active = some r →
    (stabStep s.cfg.toConfig s.stab (some r)).2 = none ∧
    ∃ t, exec (.rxPoll mag) s = .next t ∧
      t = { s with stab := { active := s.stab.active, cand := none, votes := 0 }, response := t.response }

/-- Rule R183, clause 3: one more vote, or at the threshold a confirmed transition, which invokes the differential decoder
and the framing machine with this Symbol. -/
def Obligations.RepeatedCandidateVotesAndConfirms : Prop :=
  ∀ (s : State) (mag : List Nat) (r : Nat), snapshotOk s.cfg.toConfig mag = true →
    pick s.cfg.toConfig mag = some r → s.stab.active ≠ some r → s.stab.cand = some r →
    ∃ t, exec (.rxPoll mag) s = .next t ∧
      (s.stab.votes + 1 = s.cfg.cycleThreshold →
        (stabStep s.cfg.toConfig s.stab (some r)).2 = some r ∧
        t.stab = { active := some r, cand := none, votes := 0 } ∧
        t = { s with
          stab := t.stab
          demod := (diffDec s.cfg.toConfig s.demod r).2
          frame := (frameStep s.cfg.toConfig s.frame (realNibble (diffDec s.cfg.toConfig s.demod r).1)).1
          response := t.response }) ∧
      (s.stab.votes + 1 ≠ s.cfg.cycleThreshold →
        (stabStep s.cfg.toConfig s.stab (some r)).2 = none ∧
        t = { s with stab := { active := s.stab.active, cand := s.stab.cand, votes := s.stab.votes + 1 },
                     response := t.response })

/-- Rule R184, clause 4. -/
def Obligations.OtherSymbolStartsANewCandidate : Prop :=
  ∀ (s : State) (mag : List Nat) (r : Nat), snapshotOk s.cfg.toConfig mag = true →
    pick s.cfg.toConfig mag = some r → s.stab.active ≠ some r → s.stab.cand ≠ some r →
    (stabStep s.cfg.toConfig s.stab (some r)).2 = none ∧
    ∃ t, exec (.rxPoll mag) s = .next t ∧
      t = { s with stab := { active := s.stab.active, cand := some r, votes := 1 }, response := t.response }

/-- Rule R185: a confirmation of `r` runs DIFF_DEC and then FRAME_STEP on `real mod 16`; "a poll that confirms nothing
runs neither". -/
def Obligations.ConfirmationRunsDecoderThenFraming : Prop :=
  ∀ (s : State) (mag : List Nat), snapshotOk s.cfg.toConfig mag = true →
    ∃ t, exec (.rxPoll mag) s = .next t ∧
      (∀ r, (stabStep s.cfg.toConfig s.stab (pick s.cfg.toConfig mag)).2 = some r →
        t.demod = (diffDec s.cfg.toConfig s.demod r).2 ∧
        t.frame = (frameStep s.cfg.toConfig s.frame
          (BitVec.ofNat 4 ((diffDec s.cfg.toConfig s.demod r).1 % 16))).1) ∧
      ((stabStep s.cfg.toConfig s.stab (pick s.cfg.toConfig mag)).2 = none →
        t.demod = s.demod ∧ t.frame = s.frame)

/-- Rules R82, R232, decisions D4, D5 and D27: every field of the RX_POLL response. -/
def Obligations.RxPollResponseFields : Prop :=
  ∀ (s : State) (mag : List Nat), snapshotOk s.cfg.toConfig mag = true →
    let c := s.cfg.toConfig
    let conf := (stabStep c s.stab (pick c mag)).2
    let real := conf.map fun r => (diffDec c s.demod r).1
    let nib := real.map fun v => BitVec.ofNat 4 v
    let ev := nib.map fun n => (frameStep c s.frame n).2
    ∃ t p, exec (.rxPoll mag) s = .next t ∧ t.response = some ⟨.ok, .poll p⟩ ∧
      p.raw = pick c mag ∧ p.confirmed = conf ∧ p.real = real ∧ p.nibble = nib ∧
      (∀ q, ev = some (.message q) → p.event = .message ∧ p.msgLen = BitVec.ofNat 8 q.length ∧ p.msgData = q) ∧
      (ev = some .corrupt → p.event = .corrupt ∧ p.msgLen = 0#8 ∧ p.msgData = []) ∧
      (ev = some .none ∨ ev = none → p.event = .none ∧ p.msgLen = 0#8 ∧ p.msgData = []) ∧
      p.active = t.stab.active ∧ p.rxLast = t.demod.rxLast ∧ p.mode = t.frame.mode

/-- Rules R211, R257 (derived): an event comes only from a confirming poll that completes the checksum, and leaves the
framing machine waiting for a tag. -/
def Obligations.EventsComeOnlyFromACompletedChecksum : Prop :=
  ∀ (s t : State) (mag : List Nat) (p : PollResponse), exec (.rxPoll mag) s = .next t →
    t.response = some ⟨.ok, .poll p⟩ → p.event ≠ .none →
    p.confirmed ≠ none ∧ s.frame.mode = .waitChecksum ∧ s.frame.buf.length = 1 ∧
    t.frame = { mode := .waitTag, buf := [], len := 0#8, payload := [] }

/-! ### Stabilizer over runs of polls -/

/-- Rule R186 (derived from R180 to R184): from a state where `r` is neither active nor the candidate, a run of `r`
confirms it on exactly its `CYCLE_THRESHOLD`-th poll, once. -/
def Obligations.RunOfReadingsConfirmsExactlyOnce : Prop :=
  ∀ (c : LegalConfig) (st : StabilizerState) (r : Nat) (k : Nat), st.cand ≠ some r → st.active ≠ some r →
    (stabRun c.toConfig st (List.replicate k (some r))).2 =
      (List.range k).map fun j => if j + 1 = c.cycleThreshold then some r else none

/-- Rule R190 (derived from R183, R184, R188): after a confirmation nothing is confirmed for the next
`CYCLE_THRESHOLD - 1` polls, whatever they read. -/
def Obligations.ConfirmationsAreSpacedByTheThreshold : Prop :=
  ∀ (c : LegalConfig) (st : StabilizerState) (raw : Option Nat) (x : Nat) (rs : List (Option Nat)),
    (stabStep c.toConfig st raw).2 = some x → rs.length < c.cycleThreshold →
    ∀ y ∈ (stabRun c.toConfig (stabStep c.toConfig st raw).1 rs).2, y = none

/-! ### Framing and checksum -/

/-- Rules R201, R206, R207: the sliding tag window. -/
def Obligations.TagWindowSlidesAndMatches : Prop :=
  ∀ (c : LegalConfig) (f : FrameState) (n : Nibble), f.mode = .waitTag →
    let tagn := c.tag.flatMap fun b => [highNibble b, lowNibble b]
    let w := if 2 * c.tag.length < f.buf.length + 1 then (f.buf ++ [n]).drop 1 else f.buf ++ [n]
    (w = tagn → frameStep c.toConfig f n = ({ f with mode := .waitLength, buf := [] }, .none)) ∧
    (w ≠ tagn → frameStep c.toConfig f n = ({ f with buf := w }, .none))

/-- Rule R202, decision D20 for `L = 0`: the two nibbles of the length byte. -/
def Obligations.LengthByteSelectsTheNextMode : Prop :=
  ∀ (c : LegalConfig) (f : FrameState) (hi lo : Nibble), f.mode = .waitLength → f.buf = [] →
    frameStep c.toConfig f hi = ({ f with buf := [hi] }, .none) ∧
    (hi = 0#4 ∧ lo = 0#4 → frameStep c.toConfig { f with buf := [hi] } lo =
      ({ mode := .waitChecksum, buf := [], len := 0#8, payload := [] }, .none)) ∧
    (¬ (hi = 0#4 ∧ lo = 0#4) → frameStep c.toConfig { f with buf := [hi] } lo =
      ({ f with mode := .waitContents, buf := [], len := BitVec.ofNat 8 (16 * hi.toNat + lo.toNat) }, .none))

/-- Rule R203: contents are collected until `2*frame_len` nibbles are there; byte `j` is nibbles `2j` and `2j+1`. -/
def Obligations.ContentsPairIntoThePayload : Prop :=
  ∀ (c : LegalConfig) (f : FrameState) (n : Nibble), f.mode = .waitContents →
    (f.buf.length + 1 ≠ 2 * f.len.toNat →
      frameStep c.toConfig f n = ({ f with buf := f.buf ++ [n] }, .none)) ∧
    (f.buf.length + 1 = 2 * f.len.toNat →
      frameStep c.toConfig f n =
        ({ f with mode := .waitChecksum, buf := [],
                  payload := (List.range f.len.toNat).map fun j =>
                    joinNibbles ((f.buf ++ [n]).getD (2 * j) 0) ((f.buf ++ [n]).getD (2 * j + 1) 0) }, .none))

/-- Rules R204, R253, decision D29: the verdict on the checksum's second nibble, and the return to `WAIT_TAG` under
either verdict. -/
def Obligations.ChecksumByteGivesTheVerdict : Prop :=
  ∀ (c : LegalConfig) (f : FrameState) (hi lo : Nibble), f.mode = .waitChecksum → f.buf = [] →
    frameStep c.toConfig f hi = ({ f with buf := [hi] }, .none) ∧
    frameStep c.toConfig { f with buf := [hi] } lo =
      ({ mode := .waitTag, buf := [], len := 0#8, payload := [] },
        if BitVec.ofNat 8 (16 * hi.toNat + lo.toNat) = checksum f.payload then .message f.payload else .corrupt)

/-- Rule R211 (derived from R201 to R204): after the tag, a message of length `L` produces its one event on exactly the
`2 + 2L + 2`-th nibble, for `L = 0` too (decision D20). -/
def Obligations.MessageEventComesOnItsLastNibble : Prop :=
  ∀ (c : LegalConfig) (len sum : Byte) (data : List Byte), data.length = len.toNat →
    frameRun c.toConfig { mode := .waitLength, buf := [], len := 0#8, payload := [] }
        (byteNibbles len ++ bytesNibbles data ++ byteNibbles sum) =
      ({ mode := .waitTag, buf := [], len := 0#8, payload := [] },
        List.replicate (2 * len.toNat + 3) .none ++
          [if sum = checksum data then .message data else .corrupt])

/-- Rule R212 (derived from R203 to R205): with tag, length and nibble count intact, one wrong payload byte, or a wrong
checksum byte, gives `CORRUPT`. -/
def Obligations.OneWrongByteIsReportedCorrupt : Prop :=
  ∀ (c : LegalConfig) (len : Byte) (data : List Byte), data.length = len.toNat →
    (∀ j b wrong, data[j]? = some b → wrong ≠ b →
      ∃ f evs, frameRun c.toConfig { mode := .waitLength, buf := [], len := 0#8, payload := [] }
        (byteNibbles len ++ bytesNibbles (data.set j wrong) ++ byteNibbles (checksum data)) = (f, evs) ∧
        (∀ p, .message p ∉ evs) ∧ evs.getLast? = some .corrupt) ∧
    (∀ wrong, wrong ≠ checksum data →
      ∃ f evs, frameRun c.toConfig { mode := .waitLength, buf := [], len := 0#8, payload := [] }
        (byteNibbles len ++ bytesNibbles data ++ byteNibbles wrong) = (f, evs) ∧
        (∀ p, .message p ∉ evs) ∧ evs.getLast? = some .corrupt)

/-- Rule R205: 0 for the empty sequence, the XOR of the bytes otherwise, and "reordering the bytes never changes the
result". -/
def Obligations.ChecksumIsTheXorInAnyOrder : Prop :=
  checksum [] = 0#8 ∧ (∀ (b : Byte) (p : List Byte), checksum (b :: p) = b ^^^ checksum p) ∧
  (∀ b : Byte, checksum [b, b] = 0#8) ∧ (∀ p q : List Byte, p.Perm q → checksum p = checksum q)

/-- Rule R208: in the other three modes the tag plays no part (the step is the same under any tag), the nibble is
consumed, and it does not restart framing: only the second checksum nibble leads back to `WAIT_TAG`. -/
def Obligations.TagIsSearchedForOnlyInWaitTag : Prop :=
  ∀ (c : LegalConfig) (tag : List Byte) (f : FrameState) (n : Nibble), f.mode ≠ .waitTag →
    frameStep { c.toConfig with tag := tag } f n = frameStep c.toConfig f n ∧
    ((frameStep c.toConfig f n).1.buf = f.buf ++ [n] ∨ (frameStep c.toConfig f n).1.buf = []) ∧
    ((frameStep c.toConfig f n).1.mode = .waitLength → f.mode = .waitLength) ∧
    ((frameStep c.toConfig f n).1.mode = .waitTag → f.mode = .waitChecksum ∧ f.buf.length = 1)

/-! ### Headline results -/

/-- Rules R21, R188, R189 and R210 (derived): every step, command, reset or idle, keeps the invariants, from every state
that meets them. -/
def Obligations.EveryStepKeepsTheInvariants : Prop :=
  ∀ s t : State, s.Inv → step s = .next t → t.Inv

/-- Rules R125, R186, R211, R288 and the source's end-to-end scenario (derived): from any state that meets the
invariants with the framing machine waiting on an empty window, polling each Mark of a message at least
`CYCLE_THRESHOLD` times with snapshots that read as its Symbol sends exactly one event to the decoded-output sink, the
message. The tag's nibbles must not all be equal: otherwise the resync nibble can complete the window early
(log entry 21). -/
def Obligations.TransmittedMessageIsReceived : Prop :=
  ∀ (s : State) (data : List Byte) (polls : Nat) (snap : Nat → List Nat),
    s.Inv → s.frame = { mode := .waitTag, buf := [], len := 0#8, payload := [] } → data.length ≤ 255 →
    (∀ n, tagNibbles s.cfg.toConfig ≠ List.replicate (2 * s.cfg.tagLen) n) → s.cfg.cycleThreshold ≤ polls →
    (∀ r, r < s.cfg.pv → snapshotOk s.cfg.toConfig (snap r) = true ∧ pick s.cfg.toConfig (snap r) = some r) →
    s.port = (symbolsOf (playMessage s.cfg.toConfig (BitVec.ofNat 8 data.length) data).1).flatMap
      (fun r => List.replicate polls (.command (encode (.rxPoll (snap r))))) →
    ∃ t rs, transcript s.port.length s = some (t, rs) ∧
      sinkEvents rs = [(.message, BitVec.ofNat 8 data.length, data)] ∧
      t.frame = { mode := .waitTag, buf := [], len := 0#8, payload := [] } ∧ t.port = [] ∧ t.mod = s.mod

/-! ### Durations -/

/-- Rule R7, `MARK_SECONDS` a "positive real", with the model's units of time (log entry 6): a legal configuration stays
legal with a Mark of any positive real number of seconds in place of its own. -/
def Obligations.MarkSecondsMayBeAnyPositiveReal : Prop :=
  ∀ (c : LegalConfig) (seconds : ℝ), 0 < seconds →
    ∃ (build : ℝ) (l : LegalConfig), 0 < build ∧ l.markSeconds.value build = seconds ∧
      l.toConfig = { c.toConfig with markSeconds := l.markSeconds }
end

