-- ==== Sys2Proof/Laws/Config.lean ====
section
/-! SUPPORT. What the construction checks of rule R282 give of every legal configuration, one lemma per check. -/

namespace Sys2Proof

theorem Config.firstError_eq_none (c : Config) :
    c.firstError = none ↔
      c.alphabetOk = true ∧ c.valuesOk = true ∧ c.frequenciesOk = true ∧ c.binsOk = true ∧
      c.thresholdOk = true ∧ c.tagOk = true ∧ c.markOk = true := by
  unfold Config.firstError
  cases c.alphabetOk <;> cases c.valuesOk <;> cases c.frequenciesOk <;> cases c.binsOk <;>
    cases c.thresholdOk <;> cases c.tagOk <;> cases c.markOk <;> simp

variable (c : LegalConfig)

theorem LegalConfig.checks_hold :
    c.alphabetOk = true ∧ c.valuesOk = true ∧ c.frequenciesOk = true ∧ c.binsOk = true ∧
    c.thresholdOk = true ∧ c.tagOk = true ∧ c.markOk = true :=
  c.firstError_eq_none.mp c.legal

theorem LegalConfig.n_pos : 1 ≤ c.n := by
  have h := c.checks_hold.1
  simp only [Config.alphabetOk, Bool.and_eq_true, decide_eq_true_eq] at h
  exact h.1

theorem LegalConfig.set_length_pos : ∀ set ∈ c.alphabet, 1 ≤ set.length := by
  have h := c.checks_hold.1
  simp only [Config.alphabetOk, Config.sizes, Bool.and_eq_true, List.all_map, List.all_eq_true,
    decide_eq_true_eq, Function.comp_apply] at h
  exact h.2

theorem LegalConfig.pv_ge : 17 ≤ c.pv := by
  simpa [Config.valuesOk] using c.checks_hold.2.1

theorem LegalConfig.freqs_nodup : ∀ set ∈ c.alphabet, (set.map Tone.freq).Nodup := by
  have h := c.checks_hold.2.2.1
  simp only [Config.frequenciesOk, List.all_eq_true, Bool.and_eq_true, decide_eq_true_eq] at h
  exact fun set hs => (h set hs).1

theorem LegalConfig.n_le_numBins : c.n ≤ c.numBins := by
  have h := c.checks_hold.2.2.2.1
  simp only [Config.binsOk, Bool.and_eq_true, decide_eq_true_eq] at h
  exact h.1

theorem LegalConfig.bins_nodup : ∀ set ∈ c.alphabet, (set.map Tone.bin).Nodup := by
  have h := c.checks_hold.2.2.2.1
  simp only [Config.binsOk, List.all_eq_true, Bool.and_eq_true, decide_eq_true_eq] at h
  exact fun set hs => (h.2 set hs).1

theorem LegalConfig.bin_lt : ∀ set ∈ c.alphabet, ∀ t ∈ set, t.bin < c.numBins := by
  have h := c.checks_hold.2.2.2.1
  simp only [Config.binsOk, List.all_eq_true, Bool.and_eq_true, decide_eq_true_eq] at h
  exact fun set hs => (h.2 set hs).2

theorem LegalConfig.threshold_ge : 2 ≤ c.cycleThreshold := by
  have h := c.checks_hold.2.2.2.2.1
  simp only [Config.thresholdOk, Bool.and_eq_true, decide_eq_true_eq] at h
  exact h.1

theorem LegalConfig.tagLen_pos : 1 ≤ c.tagLen := by
  have h := c.checks_hold.2.2.2.2.2.1
  simp only [Config.tagOk, Bool.and_eq_true, decide_eq_true_eq] at h
  exact h.1

theorem LegalConfig.tagLen_le : c.tagLen ≤ c.tagLenMax := by
  have h := c.checks_hold.2.2.2.2.2.1
  simp only [Config.tagOk, Bool.and_eq_true, decide_eq_true_eq] at h
  exact h.2

theorem LegalConfig.markSeconds_count_pos : 0 < c.markSeconds.count := by
  have h := c.checks_hold.2.2.2.2.2.2
  simp only [Config.markOk, Bool.and_eq_true, decide_eq_true_eq] at h
  exact h.1

theorem TimeUnit.value_pos (u : TimeUnit) (build : ℝ) (h : 0 < build) : 0 < u.value build := by
  cases u
  · exact one_pos
  · exact h

/-- The count decides whether a duration is positive, for a build's unit of any length above 0. -/
theorem Seconds.value_pos_iff (s : Seconds) (build : ℝ) (h : 0 < build) : 0 < s.value build ↔ 0 < s.count := by
  rw [Seconds.value, mul_pos_iff_of_pos_right (s.unit.value_pos build h), Rat.cast_pos]

/-- `v` fits in `ceil(log2 v)` bits' worth of values. -/
theorem Config.le_two_pow_ceilLog2 (v : Nat) : v ≤ 2 ^ Config.ceilLog2 v := by
  unfold Config.ceilLog2
  split
  · simpa using ‹v ≤ 1›
  · have := @Nat.lt_log2_self (v - 1)
    omega

end Sys2Proof
end

