-- ==== Sys2Proof/Laws/Codec.lean ====
section
/-! SUPPORT. The codec's shape: one digit per set, each within its set, and the weighted sum of digits set by set. -/

namespace Sys2Proof.Machine

@[simp] theorem encodeSets_length (sets : List FrequencySet) (x : Nat) : (encodeSets sets x).length = sets.length := by
  induction sets generalizing x with
  | nil => rfl
  | cons set rest ih => simp [encodeSets, ih]

@[simp] theorem codecEnc_length (c : Config) (s : Nat) : (codecEnc c s).length = c.n := encodeSets_length _ _

/-- The sum `d[0]*1 + d[1]*SIZES[0] + …` over the sizes of the sets, in Horner's form. -/
def weighSizes : List Nat → List Nat → Nat
  | size :: sizes, d :: ds => d + size * weighSizes sizes ds
  | _, _ => 0

theorem sum_mult_eq_weighSizes (sizes d : List Nat) (h : d.length = sizes.length) :
    ((List.range sizes.length).map fun k => d.getD k 0 * (sizes.take k).prod).sum = weighSizes sizes d := by
  induction sizes generalizing d with
  | nil => simp [weighSizes]
  | cons size sizes ih =>
    match d, h with
    | x :: d, h =>
      have h' : d.length = sizes.length := by simpa using h
      have : ∀ k, (x :: d).getD (k + 1) 0 * ((size :: sizes).take (k + 1)).prod =
          size * (d.getD k 0 * (sizes.take k).prod) := by
        intro k; simp [Nat.mul_left_comm]
      simp only [List.length_cons, List.range_succ_eq_map, List.map_cons, List.map_map, Function.comp_def,
        List.sum_cons, this, weighSizes, List.sum_map_mul_left, ih d h']
      simp

/-- `weighDigits` set by set (rule R100: `mult[k+1] = mult[k] * SIZES[k]`). -/
theorem weighDigits_eq_weighSizes (c : Config) (d : List Nat) (h : d.length = c.n) :
    weighDigits c d = weighSizes c.sizes d := by
  have hl : c.n = c.sizes.length := by simp [Config.n, Config.sizes]
  have := sum_mult_eq_weighSizes c.sizes d (by omega)
  simpa only [weighDigits, Config.mult, hl] using this

/-- One in-range digit per set weighs less than the product of the sizes. -/
theorem weighSizes_lt (sizes d : List Nat) (h : List.Forall₂ (· < ·) d sizes) :
    weighSizes sizes d < sizes.prod := by
  induction h with
  | nil => simp [weighSizes]
  | @cons x size d sizes hx _ ih =>
    simp only [weighSizes, List.prod_cons]
    calc x + size * weighSizes sizes d < size + size * weighSizes sizes d := by omega
      _ = size * (weighSizes sizes d + 1) := by ring
      _ ≤ size * sizes.prod := Nat.mul_le_mul_left _ ih

theorem digitsInRange_iff (c : Config) (d : List Nat) :
    digitsInRange c d = true ↔ ∀ k, k < c.n → d.getD k 0 < c.sizes.getD k 0 := by
  simp [digitsInRange]

/-- One in-range digit for each set, said position by position and pairwise. -/
theorem forall₂_digits (c : Config) (d : List Nat) :
    List.Forall₂ (· < ·) d c.sizes ↔ d.length = c.n ∧ ∀ k, k < c.n → d.getD k 0 < c.sizes.getD k 0 := by
  have hn : c.n = c.sizes.length := by simp [Config.n, Config.sizes]
  rw [List.forall₂_iff_get]
  constructor
  · rintro ⟨hl, h⟩
    refine ⟨by omega, fun k hk => ?_⟩
    have := h k (by omega) (by omega)
    rw [List.getD_eq_getElem _ _ (by omega), List.getD_eq_getElem _ _ (by omega)]
    simpa using this
  · rintro ⟨hl, h⟩
    refine ⟨by omega, fun i h1 h2 => ?_⟩
    simpa [List.getD_eq_getElem?_getD, h1, h2] using h i (by omega)

end Sys2Proof.Machine
end

