-- ==== Sys2Proof/Laws/Stabilizer.lean ====
section
/-! SUPPORT. The clauses of STAB_STEP, one lemma each, and all of them together. -/

namespace Sys2Proof.Machine

variable (c : Config) (st : StabilizerState)

@[simp] theorem stabStep_ambiguous : stabStep c st none = (st.clearCandidate, none) := rfl

theorem stabStep_steady (r : Nat) (h : st.active = some r) :
    stabStep c st (some r) = (st.clearCandidate, none) := by
  simp [stabStep, h]

theorem stabStep_confirm (r : Nat) (ha : st.active ≠ some r) (hc : st.cand = some r)
    (hv : st.votes + 1 = c.cycleThreshold) : stabStep c st (some r) = (confirmSymbol r, some r) := by
  simp [stabStep, ha, hc, voteCandidate, hv]

theorem stabStep_vote (r : Nat) (ha : st.active ≠ some r) (hc : st.cand = some r)
    (hv : st.votes + 1 ≠ c.cycleThreshold) :
    stabStep c st (some r) = ({ st with votes := st.votes + 1 }, none) := by
  simp [stabStep, ha, hc, voteCandidate, hv]

theorem stabStep_new (r : Nat) (ha : st.active ≠ some r) (hc : st.cand ≠ some r) :
    stabStep c st (some r) = ({ st with cand := some r, votes := 1 }, none) := by
  simp [stabStep, ha, hc, newCandidate]

/-- Everything STAB_STEP can do (rule R180): exactly one of its clauses applies. -/
theorem stabStep_cases (raw : Option Nat) :
    (stabStep c st raw = (st.clearCandidate, none)) ∨
    (∃ r, raw = some r ∧ st.active ≠ some r ∧ st.cand = some r ∧ st.votes + 1 = c.cycleThreshold ∧
      stabStep c st raw = (confirmSymbol r, some r)) ∨
    (∃ r, raw = some r ∧ st.active ≠ some r ∧ st.cand = some r ∧ st.votes + 1 ≠ c.cycleThreshold ∧
      stabStep c st raw = ({ st with votes := st.votes + 1 }, none)) ∨
    (∃ r, raw = some r ∧ st.active ≠ some r ∧ st.cand ≠ some r ∧
      stabStep c st raw = ({ st with cand := some r, votes := 1 }, none)) := by
  cases raw with
  | none => exact .inl rfl
  | some r =>
    by_cases ha : st.active = some r
    · exact .inl (stabStep_steady c st r ha)
    by_cases hc : st.cand = some r
    · by_cases hv : st.votes + 1 = c.cycleThreshold
      · exact .inr (.inl ⟨r, rfl, ha, hc, hv, stabStep_confirm c st r ha hc hv⟩)
      · exact .inr (.inr (.inl ⟨r, rfl, ha, hc, hv, stabStep_vote c st r ha hc hv⟩))
    · exact .inr (.inr (.inr ⟨r, rfl, ha, hc, stabStep_new c st r ha hc⟩))

end Sys2Proof.Machine
end

