-- ==== Sys2Proof/Laws/State.lean ====
section
/-! SUPPORT. One lemma per field per update of `State`, each true by `rfl`, so that no proof unfolds an update. -/

namespace Sys2Proof.Machine

@[simp] theorem State.withMod_cfg (s : State) (m : ModulatorState) : (s.withMod m).cfg = s.cfg := rfl
@[simp] theorem State.withMod_mod (s : State) (m : ModulatorState) : (s.withMod m).mod = m := rfl
@[simp] theorem State.withMod_stab (s : State) (m : ModulatorState) : (s.withMod m).stab = s.stab := rfl
@[simp] theorem State.withMod_demod (s : State) (m : ModulatorState) : (s.withMod m).demod = s.demod := rfl
@[simp] theorem State.withMod_frame (s : State) (m : ModulatorState) : (s.withMod m).frame = s.frame := rfl
@[simp] theorem State.withMod_port (s : State) (m : ModulatorState) : (s.withMod m).port = s.port := rfl
@[simp] theorem State.withMod_response (s : State) (m : ModulatorState) : (s.withMod m).response = s.response := rfl

@[simp] theorem State.withStab_cfg (s : State) (st : StabilizerState) : (s.withStab st).cfg = s.cfg := rfl
@[simp] theorem State.withStab_mod (s : State) (st : StabilizerState) : (s.withStab st).mod = s.mod := rfl
@[simp] theorem State.withStab_stab (s : State) (st : StabilizerState) : (s.withStab st).stab = st := rfl
@[simp] theorem State.withStab_demod (s : State) (st : StabilizerState) : (s.withStab st).demod = s.demod := rfl
@[simp] theorem State.withStab_frame (s : State) (st : StabilizerState) : (s.withStab st).frame = s.frame := rfl
@[simp] theorem State.withStab_port (s : State) (st : StabilizerState) : (s.withStab st).port = s.port := rfl
@[simp] theorem State.withStab_response (s : State) (st : StabilizerState) : (s.withStab st).response = s.response := rfl

@[simp] theorem State.withDemod_cfg (s : State) (d : DemodulatorState) : (s.withDemod d).cfg = s.cfg := rfl
@[simp] theorem State.withDemod_mod (s : State) (d : DemodulatorState) : (s.withDemod d).mod = s.mod := rfl
@[simp] theorem State.withDemod_stab (s : State) (d : DemodulatorState) : (s.withDemod d).stab = s.stab := rfl
@[simp] theorem State.withDemod_demod (s : State) (d : DemodulatorState) : (s.withDemod d).demod = d := rfl
@[simp] theorem State.withDemod_frame (s : State) (d : DemodulatorState) : (s.withDemod d).frame = s.frame := rfl
@[simp] theorem State.withDemod_port (s : State) (d : DemodulatorState) : (s.withDemod d).port = s.port := rfl
@[simp] theorem State.withDemod_response (s : State) (d : DemodulatorState) : (s.withDemod d).response = s.response := rfl

@[simp] theorem State.withFrame_cfg (s : State) (f : FrameState) : (s.withFrame f).cfg = s.cfg := rfl
@[simp] theorem State.withFrame_mod (s : State) (f : FrameState) : (s.withFrame f).mod = s.mod := rfl
@[simp] theorem State.withFrame_stab (s : State) (f : FrameState) : (s.withFrame f).stab = s.stab := rfl
@[simp] theorem State.withFrame_demod (s : State) (f : FrameState) : (s.withFrame f).demod = s.demod := rfl
@[simp] theorem State.withFrame_frame (s : State) (f : FrameState) : (s.withFrame f).frame = f := rfl
@[simp] theorem State.withFrame_port (s : State) (f : FrameState) : (s.withFrame f).port = s.port := rfl
@[simp] theorem State.withFrame_response (s : State) (f : FrameState) : (s.withFrame f).response = s.response := rfl

@[simp] theorem State.withPort_cfg (s : State) (rest : List PortEvent) : (s.withPort rest).cfg = s.cfg := rfl
@[simp] theorem State.withPort_mod (s : State) (rest : List PortEvent) : (s.withPort rest).mod = s.mod := rfl
@[simp] theorem State.withPort_stab (s : State) (rest : List PortEvent) : (s.withPort rest).stab = s.stab := rfl
@[simp] theorem State.withPort_demod (s : State) (rest : List PortEvent) : (s.withPort rest).demod = s.demod := rfl
@[simp] theorem State.withPort_frame (s : State) (rest : List PortEvent) : (s.withPort rest).frame = s.frame := rfl
@[simp] theorem State.withPort_port (s : State) (rest : List PortEvent) : (s.withPort rest).port = rest := rfl
@[simp] theorem State.withPort_response (s : State) (rest : List PortEvent) : (s.withPort rest).response = s.response := rfl

@[simp] theorem State.respond_cfg (s : State) (st : Status) (b : ResponseBody) : (s.respond st b).cfg = s.cfg := rfl
@[simp] theorem State.respond_mod (s : State) (st : Status) (b : ResponseBody) : (s.respond st b).mod = s.mod := rfl
@[simp] theorem State.respond_stab (s : State) (st : Status) (b : ResponseBody) : (s.respond st b).stab = s.stab := rfl
@[simp] theorem State.respond_demod (s : State) (st : Status) (b : ResponseBody) : (s.respond st b).demod = s.demod := rfl
@[simp] theorem State.respond_frame (s : State) (st : Status) (b : ResponseBody) : (s.respond st b).frame = s.frame := rfl
@[simp] theorem State.respond_port (s : State) (st : Status) (b : ResponseBody) : (s.respond st b).port = s.port := rfl
@[simp] theorem State.respond_response (s : State) (st : Status) (b : ResponseBody) : (s.respond st b).response = some ⟨st, b⟩ := rfl

@[simp] theorem State.idle_cfg (s : State) : (s.idle).cfg = s.cfg := rfl
@[simp] theorem State.idle_mod (s : State) : (s.idle).mod = s.mod := rfl
@[simp] theorem State.idle_stab (s : State) : (s.idle).stab = s.stab := rfl
@[simp] theorem State.idle_demod (s : State) : (s.idle).demod = s.demod := rfl
@[simp] theorem State.idle_frame (s : State) : (s.idle).frame = s.frame := rfl
@[simp] theorem State.idle_port (s : State) : (s.idle).port = s.port := rfl
@[simp] theorem State.idle_response (s : State) : (s.idle).response = none := rfl

@[simp] theorem State.resetBlock_cfg (s : State) : (s.resetBlock).cfg = s.cfg := rfl
@[simp] theorem State.resetBlock_mod (s : State) : (s.resetBlock).mod = ⟨0, 0⟩ := rfl
@[simp] theorem State.resetBlock_stab (s : State) : (s.resetBlock).stab = ⟨none, none, 0⟩ := rfl
@[simp] theorem State.resetBlock_demod (s : State) : (s.resetBlock).demod = ⟨0⟩ := rfl
@[simp] theorem State.resetBlock_frame (s : State) : (s.resetBlock).frame = ⟨.waitTag, [], 0#8, []⟩ := rfl
@[simp] theorem State.resetBlock_port (s : State) : (s.resetBlock).port = s.port := rfl
@[simp] theorem State.resetBlock_response (s : State) : (s.resetBlock).response = none := rfl

@[simp] theorem State.present_cfg (s : State) (p : Presentation) : (s.present p).cfg = s.cfg := rfl
@[simp] theorem State.present_mod (s : State) (p : Presentation) : (s.present p).mod = s.mod := rfl
@[simp] theorem State.present_stab (s : State) (p : Presentation) : (s.present p).stab = s.stab := rfl
@[simp] theorem State.present_demod (s : State) (p : Presentation) : (s.present p).demod = s.demod := rfl
@[simp] theorem State.present_frame (s : State) (p : Presentation) : (s.present p).frame = s.frame := rfl
@[simp] theorem State.present_port (s : State) (p : Presentation) : (s.present p).port = .command p :: s.port := rfl
@[simp] theorem State.present_response (s : State) (p : Presentation) : (s.present p).response = s.response := rfl

@[simp] theorem State.built_cfg (c : LegalConfig) : (State.built c).cfg = c := rfl
@[simp] theorem State.built_mod (c : LegalConfig) : (State.built c).mod = ⟨0, 0⟩ := rfl
@[simp] theorem State.built_stab (c : LegalConfig) : (State.built c).stab = ⟨none, none, 0⟩ := rfl
@[simp] theorem State.built_demod (c : LegalConfig) : (State.built c).demod = ⟨0⟩ := rfl
@[simp] theorem State.built_frame (c : LegalConfig) : (State.built c).frame = ⟨.waitTag, [], 0#8, []⟩ := rfl
@[simp] theorem State.built_port (c : LegalConfig) : (State.built c).port = [] := rfl
@[simp] theorem State.built_response (c : LegalConfig) : (State.built c).response = none := rfl

end Sys2Proof.Machine
end

