-- ==== Sys2Proof/Laws/Commands.lean ====
section
/-! SUPPORT. What a poll writes, field by field, what each command answers, and what a step does with each port event. -/

namespace Sys2Proof.Machine

variable (raw : Option Nat) (s : State)

@[simp] theorem receive_cfg : (receive raw s).cfg = s.cfg := by
  simp only [receive]; split <;> simp [finishUnconfirmed, finishConfirmed]

@[simp] theorem receive_mod : (receive raw s).mod = s.mod := by
  simp only [receive]; split <;> simp [finishUnconfirmed, finishConfirmed]

@[simp] theorem receive_port : (receive raw s).port = s.port := by
  simp only [receive]; split <;> simp [finishUnconfirmed, finishConfirmed]

@[simp] theorem receive_stab : (receive raw s).stab = (stabStep s.cfg.toConfig s.stab raw).1 := by
  simp only [receive]; split <;> simp [finishUnconfirmed, finishConfirmed]

/-- A poll that confirms nothing (rule R185). -/
theorem receive_unconfirmed (h : (stabStep s.cfg.toConfig s.stab raw).2 = none) :
    receive raw s = finishUnconfirmed raw (s.withStab (stabStep s.cfg.toConfig s.stab raw).1) := by
  simp [receive, h]

/-- A poll that confirms `r` (rule R185). -/
theorem receive_confirmed (r : Nat) (h : (stabStep s.cfg.toConfig s.stab raw).2 = some r) :
    receive raw s = finishConfirmed raw r (s.withStab (stabStep s.cfg.toConfig s.stab raw).1) := by
  simp [receive, h]

/-- What a poll does to DemodulatorState and FrameState: both on a confirmation, else neither (rule R185). -/
theorem receive_cases :
    (∃ r, (stabStep s.cfg.toConfig s.stab raw).2 = some r ∧
      (receive raw s).demod = (diffDec s.cfg.toConfig s.demod r).2 ∧
      (receive raw s).frame =
        (frameStep s.cfg.toConfig s.frame (realNibble (diffDec s.cfg.toConfig s.demod r).1)).1) ∨
    ((stabStep s.cfg.toConfig s.stab raw).2 = none ∧
      (receive raw s).demod = s.demod ∧ (receive raw s).frame = s.frame) := by
  cases h : (stabStep s.cfg.toConfig s.stab raw).2 with
  | none => exact .inr (by rw [receive_unconfirmed _ _ h]; simp [finishUnconfirmed])
  | some r => exact .inl ⟨r, rfl, by rw [receive_confirmed _ _ _ h]; simp [finishConfirmed]⟩

theorem execRxPoll_next (mag : List Nat) (h : snapshotOk s.cfg.toConfig mag = true) :
    execRxPoll mag s = .next (receive (pick s.cfg.toConfig mag) s) := by
  simp [execRxPoll, h]

theorem execRxPoll_eq_next (mag : List Nat) (t : State) (h : execRxPoll mag s = .next t) :
    snapshotOk s.cfg.toConfig mag = true ∧ t = receive (pick s.cfg.toConfig mag) s := by
  unfold execRxPoll at h
  split at h
  · exact ⟨‹_›, by simpa using h.symm⟩
  · cases h

theorem step_idle (h : s.port = []) : step s = .next s.idle := by
  simp [step, acceptPort, h]

theorem step_command (p : Presentation) (rest : List PortEvent) (h : s.port = .command p :: rest) :
    step s = runPresented p (s.withPort rest) := by
  simp [step, acceptPort, h]

theorem step_overlap (p q : Presentation) (rest : List PortEvent) (h : s.port = .overlap p q :: rest) :
    step s = .fault .overlappingCommands := by
  simp [step, acceptPort, h]

theorem step_reset (rest : List PortEvent) (h : s.port = .reset :: rest) :
    step s = .next (s.withPort rest).resetBlock := by
  simp [step, acceptPort, h]

/-- Everything a step that answers a next state can be: idle, a reset, or one decoded command. -/
theorem step_next_cases (t : State) (h : step s = .next t) :
    (s.port = [] ∧ t = s.idle) ∨
    (∃ rest, s.port = .reset :: rest ∧ t = (s.withPort rest).resetBlock) ∨
    (∃ p rest i, s.port = .command p :: rest ∧ decode s.cfg.toConfig p = .ok i ∧
      exec i (s.withPort rest) = .next t) := by
  match hp : s.port with
  | [] => rw [step_idle s hp] at h; exact .inl ⟨rfl, by simpa using h.symm⟩
  | .reset :: rest => rw [step_reset s rest hp] at h; exact .inr (.inl ⟨rest, rfl, by simpa using h.symm⟩)
  | .overlap p q :: rest => rw [step_overlap s p q rest hp] at h; cases h
  | .command p :: rest =>
    rw [step_command s p rest hp, runPresented] at h
    split at h
    · exact .inr (.inr ⟨p, rest, _, rfl, by assumption, h⟩)
    · cases h

end Sys2Proof.Machine
end

