-- ==== Sys2Proof/Laws/Decode.lean ====
section
/-! SUPPORT. What the decoder does with each kind of command word, so that no proof unfolds `decode`. -/

namespace Sys2Proof

variable (c : Config) (ops : List Nat)

theorem decode_nop_word : decode c ⟨0x00, ops⟩ = decodeNop ops := by simp [decode]

theorem decode_poll_word : decode c ⟨0x01, ops⟩ = decodePoll c ops := by simp [decode]

theorem decode_play_word : decode c ⟨0x02, ops⟩ = decodePlay ops := by simp [decode]

/-- Every word but the three defined ones is dispatched to RESERVED, whatever its operands (rules R230, R234). -/
theorem decode_reserved_word (w : Byte) (h : 3 ≤ w.toNat) : decode c ⟨w, ops⟩ = .ok (decodeReserved w) := by
  have hw : ∀ w : Byte, 3 ≤ w.toNat → w.extractLsb' 4 4 ≠ 0#4 ∨
      (w.extractLsb' 0 4 ≠ 0#4 ∧ w.extractLsb' 0 4 ≠ 1#4 ∧ w.extractLsb' 0 4 ≠ 2#4) := by decide
  unfold decode
  rcases hw w h with h | ⟨h0, h1, h2⟩
  · simp [h]
  · simp [h0, h1, h2]

theorem defined_words : ∀ w : Byte, w.toNat < 3 → w = 0x00 ∨ w = 0x01 ∨ w = 0x02 := by decide

theorem encodeWord_decodeReserved : ∀ w : Byte, 3 ≤ w.toNat → encodeWord (decodeReserved w) = w := by decide

theorem decodeReserved_wf (w : Byte) : (decodeReserved w).wf c = true := by
  unfold decodeReserved
  repeat' split
  all_goals rfl

theorem decodePoll_eq_ok (i : Instr) : decodePoll c ops = .ok i ↔ i = .rxPoll ops ∧ snapshotOk c ops = true := by
  by_cases hl : ops.length = c.numBins <;> by_cases ha : ops.all (· < 2 ^ c.magW) = true
  all_goals (simp [decodePoll, snapshotOk, hl, ha] <;> tauto)

/-- TX_PLAY's operand units are its length and exactly that many bytes (rule R79). -/
theorem decodePlay_eq_ok (i : Instr) (h : decodePlay ops = .ok i) :
    ∃ len data, i = .txPlay len data ∧ data.length = len.toNat ∧ ops = len.toNat :: data.map BitVec.toNat := by
  cases ops with
  | nil => simp [decodePlay] at h
  | cons l ds =>
    simp only [decodePlay] at h
    split at h
    · cases h
    split at h
    · cases h
    split at h
    · rename_i hl hd hb
      cases h
      have hmap : ds.map (BitVec.toNat ∘ BitVec.ofNat 8) = ds := by
        simp only [List.all_eq_true, decide_eq_true_eq] at hb
        conv_rhs => rw [← List.map_id ds]
        exact List.map_congr_left fun a ha => by simpa using Nat.mod_eq_of_lt (hb a ha)
      refine ⟨_, _, rfl, by simp; omega, ?_⟩
      rw [List.map_map, hmap, BitVec.toNat_ofNat, Nat.mod_eq_of_lt (by omega)]
    · cases h

end Sys2Proof
end

