-- ==== Sys2Proof/Laws/Differential.lean ====
section
/-! SUPPORT. What the differential encoder and decoder return, as facts of linear arithmetic. -/

namespace Sys2Proof.Machine

variable (c : LegalConfig)

theorem diffEncSymbol_lt (last : Nat) (v : Nibble) : diffEncSymbol c.toConfig last v < c.pv :=
  Nat.mod_lt _ (by have := c.pv_ge; omega)

/-- The encoded Symbol is `last + v + 1`, reduced by `PV` at most once. -/
theorem diffEncSymbol_cases (last : Nat) (v : Nibble) (h : last < c.pv) :
    (last + v.toNat + 1 < c.pv ∧ diffEncSymbol c.toConfig last v = last + v.toNat + 1) ∨
    (c.pv ≤ last + v.toNat + 1 ∧ diffEncSymbol c.toConfig last v + c.pv = last + v.toNat + 1) := by
  have hv := v.isLt
  have hp := c.pv_ge
  unfold diffEncSymbol
  by_cases hlt : last + v.toNat + 1 < c.pv
  · exact .inl ⟨hlt, Nat.mod_eq_of_lt hlt⟩
  · refine .inr ⟨by omega, ?_⟩
    rw [Nat.mod_eq_sub_mod (by omega), Nat.mod_eq_of_lt (by omega)]
    omega

/-- The realValue is `value - rx_last - 1`, with `PV` added where that would fall below zero (rule R121). -/
theorem diffDecReal_cases (last value : Nat) (h : last < c.pv) :
    (last < value ∧ diffDecReal c.toConfig last value + last + 1 = value) ∨
    (value ≤ last ∧ diffDecReal c.toConfig last value + last + 1 = value + c.pv) := by
  unfold diffDecReal
  by_cases hlt : last < value
  · exact .inl ⟨hlt, by simp only [ge_iff_le, not_le.mpr hlt, if_false]; omega⟩
  · exact .inr ⟨by omega, by simp only [ge_iff_le, not_lt.mp hlt, if_true]; omega⟩

/-- A decoder in step with the encoder recovers the nibble (rule R125). -/
theorem diffDecReal_diffEncSymbol (last : Nat) (v : Nibble) (h : last < c.pv) :
    diffDecReal c.toConfig last (diffEncSymbol c.toConfig last v) = v.toNat := by
  have := v.isLt
  have := c.pv_ge
  have := diffEncSymbol_lt c last v
  have := diffEncSymbol_cases c last v h
  have := diffDecReal_cases c last (diffEncSymbol c.toConfig last v) h
  omega

end Sys2Proof.Machine
end

