-- ==== Sys2Proof/Laws/Operands.lean ====
section
/-! SUPPORT. Nibbles and bytes: the split and the join are inverse (rules R76, R77), and so are the nibble form of a byte
sequence and the pairing of nibbles. -/

namespace Sys2Proof.Machine

@[simp] theorem joinNibbles_split (b : Byte) : joinNibbles (highNibble b) (lowNibble b) = b := by
  revert b; decide

theorem joinNibbles_toNat (hi lo : Nibble) : (joinNibbles hi lo).toNat = 16 * hi.toNat + lo.toNat := by
  revert hi lo; decide

theorem highNibble_toNat (b : Byte) : (highNibble b).toNat = b.toNat / 16 := by
  revert b; decide

theorem lowNibble_toNat (b : Byte) : (lowNibble b).toNat = b.toNat % 16 := by
  revert b; decide

theorem joinNibbles_eq_zero (hi lo : Nibble) : joinNibbles hi lo = 0#8 ↔ hi = 0#4 ∧ lo = 0#4 := by
  revert hi lo; decide

@[simp] theorem bytesNibbles_nil : bytesNibbles [] = [] := rfl

@[simp] theorem bytesNibbles_cons (b : Byte) (p : List Byte) :
    bytesNibbles (b :: p) = highNibble b :: lowNibble b :: bytesNibbles p := rfl

@[simp] theorem bytesNibbles_length (p : List Byte) : (bytesNibbles p).length = 2 * p.length := by
  induction p with
  | nil => rfl
  | cons b p ih => simp [ih]; omega

@[simp] theorem pairBytes_bytesNibbles (p : List Byte) : pairBytes (bytesNibbles p) = p := by
  induction p with
  | nil => rfl
  | cons b p ih => simp [pairBytes, ih]

theorem pairBytes_length : ∀ ns : List Nibble, (pairBytes ns).length = ns.length / 2
  | [] => rfl
  | [_] => by simp [pairBytes]
  | _ :: _ :: rest => by simp [pairBytes, pairBytes_length rest]; omega

@[simp] theorem tagNibbles_length (c : Config) : (tagNibbles c).length = 2 * c.tagLen := by
  simp [tagNibbles, Config.tagLen]

end Sys2Proof.Machine
end

