-- ==== Sys2Proof/Laws/Framing.lean ====
section
/-! SUPPORT. The outcomes of FRAME_STEP, one lemma per mode and case, and the algebra of CHECKSUM. -/

namespace Sys2Proof.Machine

theorem checksum_foldl (p : List Byte) (a : Byte) : p.foldl (· ^^^ ·) a = a ^^^ checksum p := by
  induction p generalizing a with
  | nil => simp [checksum]
  | cons b p ih =>
    have hb : checksum (b :: p) = b ^^^ checksum p := by
      rw [checksum, List.foldl_cons, BitVec.zero_xor, ih]
    rw [List.foldl_cons, ih, hb, BitVec.xor_assoc]

@[simp] theorem checksum_nil : checksum [] = 0#8 := rfl

@[simp] theorem checksum_cons (b : Byte) (p : List Byte) : checksum (b :: p) = b ^^^ checksum p := by
  rw [checksum, List.foldl_cons, BitVec.zero_xor, checksum_foldl]

@[simp] theorem slideWindow_length_le (c : Config) (buf : List Nibble) (n : Nibble)
    (h : buf.length ≤ 2 * c.tagLen) : (slideWindow c buf n).length ≤ 2 * c.tagLen := by
  unfold slideWindow
  split <;> simp at * <;> omega

variable (c : Config) (f : FrameState) (n : Nibble)

theorem frameStep_tag_match (h : f.mode = .waitTag) (hw : slideWindow c f.buf n = tagNibbles c) :
    frameStep c f n = ({ f with mode := .waitLength, buf := [] }, .none) := by
  simp [frameStep, h, frameTag, hw]

theorem frameStep_tag_slide (h : f.mode = .waitTag) (hw : slideWindow c f.buf n ≠ tagNibbles c) :
    frameStep c f n = ({ f with buf := slideWindow c f.buf n }, .none) := by
  simp [frameStep, h, frameTag, hw]

theorem frameStep_length_first (h : f.mode = .waitLength) (hb : f.buf = []) :
    frameStep c f n = ({ f with buf := [n] }, .none) := by
  simp [frameStep, h, frameLength, hb]

theorem frameStep_length_zero (hi : Nibble) (h : f.mode = .waitLength) (hb : f.buf = [hi])
    (hz : joinNibbles hi n = 0#8) : frameStep c f n = (⟨.waitChecksum, [], 0#8, []⟩, .none) := by
  simp [frameStep, h, frameLength, hb, hz]

theorem frameStep_length_nonzero (hi : Nibble) (h : f.mode = .waitLength) (hb : f.buf = [hi])
    (hz : joinNibbles hi n ≠ 0#8) :
    frameStep c f n = ({ f with mode := .waitContents, buf := [], len := joinNibbles hi n }, .none) := by
  simp only [frameStep, h, frameLength, hb, List.singleton_append, hz, if_false]

theorem frameStep_contents_more (h : f.mode = .waitContents) (hl : f.buf.length + 1 ≠ 2 * f.len.toNat) :
    frameStep c f n = ({ f with buf := f.buf ++ [n] }, .none) := by
  simp [frameStep, h, frameContents, hl]

theorem frameStep_contents_done (h : f.mode = .waitContents) (hl : f.buf.length + 1 = 2 * f.len.toNat) :
    frameStep c f n =
      ({ f with mode := .waitChecksum, buf := [], payload := pairBytes (f.buf ++ [n]) }, .none) := by
  simp [frameStep, h, frameContents, hl]

theorem frameStep_checksum_first (h : f.mode = .waitChecksum) (hb : f.buf = []) :
    frameStep c f n = ({ f with buf := [n] }, .none) := by
  simp [frameStep, h, frameChecksum, hb]

theorem frameStep_checksum_verdict (hi : Nibble) (h : f.mode = .waitChecksum) (hb : f.buf = [hi]) :
    frameStep c f n = (FrameState.waiting,
      if joinNibbles hi n = checksum f.payload then .message f.payload else .corrupt) := by
  simp only [frameStep, h, frameChecksum, hb, List.singleton_append]

/-- The one place an event comes from: the second nibble in `WAIT_CHECKSUM` (rule R204). -/
theorem frameStep_event (h : (frameStep c f n).2 ≠ .none) :
    f.mode = .waitChecksum ∧ f.buf.length = 1 ∧ (frameStep c f n).1 = FrameState.waiting := by
  unfold frameStep frameTag frameLength frameContents frameChecksum at *
  cases hm : f.mode <;> simp only [hm] at h ⊢
  · split at h <;> simp at h
  · split at h
    · split at h <;> simp at h
    · simp at h
  · split at h <;> simp at h
  · split at h
    · rename_i hi lo hb
      exact ⟨trivial, by simpa using congrArg List.length hb, rfl⟩
    · simp at h

end Sys2Proof.Machine
end

