-- ==== Sys2Proof/Laws/Modulator.lean ====
section
/-! SUPPORT. The shape of a schedule: one record per nibble, split over an append, and the exact Mark times. -/

namespace Sys2Proof.Machine

/-- A Mark time is its slot times `MARK_SECONDS`, whatever the build's unit (rule R84). -/
theorem markTime_value (c : Config) (i : Nat) (build : ℝ) :
    (markTime c i).value build = (i : ℝ) * c.markSeconds.value build := by
  have h : mkRat (i * c.markSeconds.count.num) c.markSeconds.count.den = (i : Rat) * c.markSeconds.count := by
    rw [Rat.mkRat_eq_div]
    push_cast
    rw [mul_div_assoc, Rat.num_div_den]
  simp only [markTime, Seconds.value, h, Rat.cast_mul, Rat.cast_natCast, mul_assoc]

@[simp] theorem scheduleMarks_nil (c : Config) (m : ModulatorState) : scheduleMarks c m [] = ([], m) := rfl

/-- One turn of the loop: the Symbol, its record, and the next `tx_last` and `tx_slot` (rule R140). -/
theorem scheduleMarks_cons (c : Config) (m : ModulatorState) (n : Nibble) (ns : List Nibble) :
    scheduleMarks c m (n :: ns) =
      (scheduleRecord c m.txSlot n (diffEncSymbol c m.txLast n) ::
          (scheduleMarks c ⟨diffEncSymbol c m.txLast n, m.txSlot + 1⟩ ns).1,
        (scheduleMarks c ⟨diffEncSymbol c m.txLast n, m.txSlot + 1⟩ ns).2) := rfl

@[simp] theorem scheduleMarks_length (c : Config) (m : ModulatorState) (ns : List Nibble) :
    (scheduleMarks c m ns).1.length = ns.length := by
  induction ns generalizing m with
  | nil => rfl
  | cons n ns ih => simp [scheduleMarks_cons, ih]

@[simp] theorem scheduleMarks_slot (c : Config) (m : ModulatorState) (ns : List Nibble) :
    (scheduleMarks c m ns).2.txSlot = m.txSlot + ns.length := by
  induction ns generalizing m with
  | nil => rfl
  | cons n ns ih => simp [scheduleMarks_cons, ih]; omega

theorem scheduleMarks_append (c : Config) (m : ModulatorState) (ns ms : List Nibble) :
    scheduleMarks c m (ns ++ ms) =
      ((scheduleMarks c m ns).1 ++ (scheduleMarks c (scheduleMarks c m ns).2 ms).1,
        (scheduleMarks c (scheduleMarks c m ns).2 ms).2) := by
  induction ns generalizing m with
  | nil => rfl
  | cons n ns ih => simp [scheduleMarks_cons, ih]

theorem messageStream_length (c : Config) (len : Byte) (data : List Byte) (h : data.length = len.toNat) :
    (messageStream c len data).length = c.marks len.toNat := by
  simp [messageStream, byteNibbles, Config.marks, h]; omega

theorem payloadOk_iff (len : Byte) (data : List Byte) : payloadOk len data = true ↔ data.length = len.toNat := by
  simp [payloadOk]

/-- What TX_PLAY does on operands the hardware can receive (rule R140). -/
theorem execTxPlay_next (len : Byte) (data : List Byte) (s : State) (h : data.length = len.toNat) :
    execTxPlay len data s =
      .next ((s.withMod (playMessage s.cfg.toConfig len data).2).respond .ok
        (.play (playMessage s.cfg.toConfig len data).1)) := by
  simp [execTxPlay, payloadOk, h]

theorem scheduleMarks_txLast_lt (c : LegalConfig) (m : ModulatorState) (ns : List Nibble) (h : m.txLast < c.pv) :
    (scheduleMarks c.toConfig m ns).2.txLast < c.pv := by
  induction ns generalizing m with
  | nil => exact h
  | cons n ns ih => rw [scheduleMarks_cons]; exact ih _ (diffEncSymbol_lt c _ _)

end Sys2Proof.Machine
end

