-- ==== Sys2Proof/Laws/PerInstr.lean ====
section
/-! SUPPORT. One law per constructor of `Instr`: its command word is one of its row of `spec/opcode_table.json`. -/

namespace Sys2Proof.Laws.WordInRow

/-- The `mask` and `match` columns of a constructor's row of `spec/opcode_table.json` (rule R80). -/
def row : Instr → Byte × Byte
  | .nop => (0xFF, 0x00)
  | .rxPoll _ => (0xFF, 0x01)
  | .txPlay _ _ => (0xFF, 0x02)
  | .reserved03 => (0xFF, 0x03)
  | .reserved04 _ => (0xFC, 0x04)
  | .reserved08 _ => (0xF8, 0x08)
  | .reserved10 _ => (0xF0, 0x10)
  | .reserved20 _ => (0xE0, 0x20)
  | .reserved40 _ => (0xC0, 0x40)
  | .reserved80 _ => (0x80, 0x80)

/-- The command word of `i` masked by its row's `mask` is its row's `match`. -/
abbrev Statement (i : Instr) : Prop := encodeWord i &&& (row i).1 = (row i).2

theorem nop : Statement .nop := by decide
theorem rxPoll (mag : List Nat) : Statement (.rxPoll mag) := by
  change 0x01#8 &&& 0xFF#8 = 0x01#8; decide
theorem txPlay (len : Byte) (data : List Byte) : Statement (.txPlay len data) := by
  change 0x02#8 &&& 0xFF#8 = 0x02#8; decide
theorem reserved03 : Statement .reserved03 := by decide
theorem reserved04 (x : BitVec 2) : Statement (.reserved04 x) := by revert x; decide
theorem reserved08 (x : BitVec 3) : Statement (.reserved08 x) := by revert x; decide
theorem reserved10 (x : BitVec 4) : Statement (.reserved10 x) := by revert x; decide
theorem reserved20 (x : BitVec 5) : Statement (.reserved20 x) := by revert x; decide
theorem reserved40 (x : BitVec 6) : Statement (.reserved40 x) := by revert x; decide
theorem reserved80 (x : BitVec 7) : Statement (.reserved80 x) := by revert x; decide

end Sys2Proof.Laws.WordInRow
end

