-- ==== Sys2Proof/Laws/Picker.lean ====
section
/-! SUPPORT. The ranking is a sorted permutation of the bins (rules R162, R163), and `owners` lists exactly the pairs of
rule R161. -/

namespace Sys2Proof.Machine

theorem rankedBins_perm (c : Config) (mag : List Nat) : (rankedBins c mag).Perm (List.range c.numBins) :=
  List.perm_insertionSort _ _

@[simp] theorem rankedBins_length (c : Config) (mag : List Nat) : (rankedBins c mag).length = c.numBins := by
  simpa using (rankedBins_perm c mag).length_eq

theorem ranksBefore_total (mag : List Nat) (a b : Nat) : ranksBefore mag a b ∨ ranksBefore mag b a := by
  simp only [ranksBefore]; omega

theorem ranksBefore_trans (mag : List Nat) {a b d : Nat} (h : ranksBefore mag a b) (h' : ranksBefore mag b d) :
    ranksBefore mag a d := by
  simp only [ranksBefore] at *; omega

theorem rankedBins_pairwise (c : Config) (mag : List Nat) :
    (rankedBins c mag).Pairwise (ranksBefore mag) := by
  have : Std.Total (ranksBefore mag) := ⟨ranksBefore_total mag⟩
  have : IsTrans Nat (ranksBefore mag) := ⟨fun _ _ _ => ranksBefore_trans mag⟩
  exact List.pairwise_insertionSort _ _

theorem mem_ownersInSet (k b : Nat) (set : FrequencySet) (p : Nat × Nat) :
    p ∈ ownersInSet k b set ↔ p.1 = k ∧ ∃ t, set[p.2]? = some t ∧ t.bin = b := by
  obtain ⟨k', i⟩ := p
  simp only [ownersInSet, List.mem_filterMap, Prod.exists, Option.ite_none_right_eq_some, Option.some.injEq,
    Prod.mk.injEq, List.mem_zipIdx_iff_getElem?]
  constructor
  · rintro ⟨t, j, hj, hb, rfl, rfl⟩
    exact ⟨rfl, t, hj, hb⟩
  · rintro ⟨rfl, t, ht, hb⟩
    exact ⟨t, i, ht, hb, rfl, rfl⟩

/-- `owners(b)` is "the set of pairs `(k, i)` with `BIN[k][i] = b`" (rule R161). -/
theorem mem_owners (c : Config) (b : Nat) (p : Nat × Nat) :
    p ∈ owners c b ↔ ∃ set, c.alphabet[p.1]? = some set ∧ ∃ t, set[p.2]? = some t ∧ t.bin = b := by
  simp only [owners, List.mem_flatMap, Prod.exists, List.mem_zipIdx_iff_getElem?, mem_ownersInSet]
  constructor
  · rintro ⟨set, k, hk, rfl, t, ht, hb⟩
    exact ⟨set, hk, t, ht, hb⟩
  · rintro ⟨set, hk, t, ht, hb⟩
    exact ⟨set, p.1, hk, rfl, t, ht, hb⟩

end Sys2Proof.Machine
end

