-- ==== Sys2Proof/Tests/Slice0.lean ====
section
/-! SUPPORT. Tests: ill-formed terms and illegal configurations refused, words written out from the spec's encodings,
vectors of `spec/95_test_vectors.md` (each test names the ones it takes its results from), and a witness for the
hypotheses of each obligation that has some. -/

namespace Sys2Proof.Tests

open Sys2Proof.Machine

/-! ### Small configurations and states -/

/-- The reference configuration (R9) with the test bins (R10). -/
def ref : Config := LegalConfig.reference.toConfig

/-- The reference configuration with `PICK_MODE = UNVALIDATED`. -/
def unvalidated : Config := { ref with pickMode := .unvalidated }

/-- The same as a legal configuration. -/
def unvalidatedLegal : LegalConfig := ⟨unvalidated, by decide⟩

/-- One set of tones for each size, in bins counted up from `b`; `FREQ` is 1 Hz times the bin plus 1. -/
def setsOf : List Nat → Nat → List FrequencySet
  | [], _ => []
  | n :: sizes, b => (List.range n).map (fun i => ⟨(((b + i + 1 : Nat) : Int) : Rat), b + i⟩) :: setsOf sizes (b + n)

/-- The test configuration with other sizes (V1.10 to V1.14). -/
def sized (sizes : List Nat) : Config := { ref with alphabet := setsOf sizes 0, numBins := sizes.sum }

/-- The configuration of V3.15, where bin 6 is shared by the two sets. -/
def shared : Config :=
  { ref with alphabet := [[⟨200, 2⟩, ⟨300, 3⟩, ⟨400, 4⟩, ⟨500, 5⟩, ⟨600, 6⟩], [⟨800, 6⟩, ⟨900, 9⟩, ⟨1000, 10⟩, ⟨1100, 11⟩]] }

/-- A 16-bin snapshot: the listed bins, and a base value elsewhere (V3). -/
def snapshot (base : Nat) (bins : List (Nat × Nat)) : List Nat :=
  (List.range 16).map fun b => ((bins.find? fun p => p.1 == b).map Prod.snd).getD base

/-- `IDEAL(s)` (rule R89), with the bins of the table of rule R72. -/
def ideal (s : Nat) : List Nat := snapshot 10 [(2 + s % 5, 200), (8 + s / 5, 180)]

/-- `{act, cand, votes | rx | mode, buf, flen, pay | tx_last, tx_slot}` in the reference configuration, as
`spec/95_test_vectors.md` writes states. -/
def st (act cand : Option Nat) (votes rx : Nat) (mode : FrameMode) (buf : List Nibble) (flen : Byte)
    (pay : List Byte) (last slot : Nat) : State :=
  { State.reset with
    mod := ⟨last, slot⟩, stab := ⟨act, cand, votes⟩, demod := ⟨rx⟩, frame := ⟨mode, buf, flen, pay⟩ }

/-- The state an outcome gives, or the reset state where it gives none. -/
def after : Result → State
  | .next t => t
  | .fault _ => State.reset
  | .refused _ => State.reset

/-- The state an outcome gives, if any. -/
def next? : Result → Option State
  | .next t => some t
  | .fault _ => none
  | .refused _ => none

/-- The refusal an outcome gives, if any. -/
def refusal? : Result → Option Refusal
  | .next _ => none
  | .fault _ => none
  | .refused r => some r

/-- The RX_POLL fields of a state's response. -/
def pollOf (s : State) : Option PollResponse :=
  match s.response with
  | some ⟨_, .poll p⟩ => some p
  | some ⟨_, .empty⟩ => none
  | some ⟨_, .play _⟩ => none
  | none => none

/-! ### Ill-formed terms and presentations are refused -/

theorem test_wf_snapshotLength : Instr.wf ref (.rxPoll (List.replicate 15 0)) = false := by decide
theorem test_wf_magnitudeWidth : Instr.wf ref (.rxPoll (256 :: List.replicate 15 0)) = false := by decide
theorem test_wf_payloadLength : Instr.wf ref (.txPlay 2 [0x68]) = false := by decide
theorem test_wf_accepts : Instr.wf ref (.rxPoll (255 :: List.replicate 15 0)) = true ∧
    Instr.wf ref (.txPlay 1 [0x68]) = true ∧ Instr.wf ref .nop = true := by decide

theorem test_illFormedTermsRefused :
    refusal? (exec (.rxPoll []) State.reset) = some .illFormedOperands ∧
    refusal? (exec (.txPlay 1 []) State.reset) = some .illFormedOperands := by decide

theorem test_malformedPresentationsRefused :
    decode ref ⟨0x00, [0]⟩ = .error .operandsWithNop ∧
    decode ref ⟨0x01, List.replicate 17 0⟩ = .error .snapshotLength ∧
    decode ref ⟨0x01, 256 :: List.replicate 15 0⟩ = .error .magnitudeWidth ∧
    decode ref ⟨0x02, []⟩ = .error .lengthMissing ∧
    decode ref ⟨0x02, [256]⟩ = .error .lengthWidth ∧
    decode ref ⟨0x02, [1]⟩ = .error .dataLength ∧
    decode ref ⟨0x02, [1, 256]⟩ = .error .dataWidth := by decide

/-- Rule R282: one configuration for each check of 1 to 7 that breaks it, and both picking policies accepted. -/
theorem test_constructionChecks :
    (sized [17, 0]).firstError = some .alphabet ∧ (sized []).firstError = some .alphabet ∧
    (sized [16]).firstError = some .tooFewValues ∧ (sized [17]).firstError = none ∧
    ({ ref with alphabet := setsOf [17] 0 ++ [[⟨5, 0⟩, ⟨5, 1⟩]], numBins := 17 } : Config).firstError =
      some .frequencies ∧
    ({ ref with alphabet := setsOf [17] 0 ++ [[⟨5, 1⟩, ⟨6, 1⟩]], numBins := 17 } : Config).firstError = some .bins ∧
    ({ ref with numBins := 11 } : Config).firstError = some .bins ∧ shared.firstError = none ∧
    ({ ref with cycleThreshold := 1 } : Config).firstError = some .threshold ∧
    ({ ref with cycleThreshold := 8 } : Config).firstError = some .threshold ∧
    ({ ref with tag := [] } : Config).firstError = some .tagLength ∧
    ({ ref with tag := [1, 2, 3] } : Config).firstError = some .tagLength ∧
    ({ ref with markSeconds := ⟨0, .second⟩ } : Config).firstError = some .markOrWidth ∧
    ({ ref with magW := 0 } : Config).firstError = some .markOrWidth ∧ unvalidated.firstError = none := by
  decide +kernel

/-- A Mark in the build's own unit: 3/2 of it, and slot 2 starts 3 of it after the command (rule R84). -/
theorem test_markInBuildUnit :
    ({ ref with markSeconds := ⟨3 / 2, .build⟩ } : Config).firstError = none ∧
    ({ ref with markSeconds := ⟨0, .build⟩ } : Config).firstError = some .markOrWidth ∧
    markTime { ref with markSeconds := ⟨3 / 2, .build⟩ } 2 = ⟨3, .build⟩ := by decide +kernel

/-- Rule R8's reference values, and the layout of E1. -/
theorem test_derivedValues :
    ref.pv = 20 ∧ [ref.mult 0, ref.mult 1] = [1, 5] ∧ ref.sw = 5 ∧ ref.marks 2 = 13 ∧ ref.slotW = 10 ∧
    ref.votesW = 3 ∧ tagNibbles ref = [4, 1, 4, 2] := by decide

/-! ### Decoding: words written out from `spec/opcode_table.json` and rule R88 -/

theorem test_decode_nop : decode ref ⟨0b00000000#8, []⟩ = .ok .nop := by decide
/-- `POLLSYM 13` of V2. -/
theorem test_decode_rxPoll :
    decode ref ⟨0b00000001#8, [0x0A, 0x0A, 0x0A, 0x0A, 0x0A, 0xC8, 0x0A, 0x0A, 0x0A, 0x0A, 0xB4, 0x0A, 0x0A, 0x0A,
      0x0A, 0x0A]⟩ = .ok (.rxPoll (ideal 13)) := by decide
/-- V5.1, `02 02 68 69`. -/
theorem test_decode_txPlay : decode ref ⟨0b00000010#8, [0x02, 0x68, 0x69]⟩ = .ok (.txPlay 2 [0x68, 0x69]) := by decide
theorem test_decode_reserved03 : decode ref ⟨0b00000011#8, []⟩ = .ok .reserved03 := by decide
theorem test_decode_reserved04 : decode ref ⟨0b00000101#8, []⟩ = .ok (.reserved04 0b01) := by decide
theorem test_decode_reserved08 : decode ref ⟨0b00001110#8, []⟩ = .ok (.reserved08 0b110) := by decide
theorem test_decode_reserved10 : decode ref ⟨0b00010010#8, [1]⟩ = .ok (.reserved10 0b0010) := by decide
theorem test_decode_reserved20 : decode ref ⟨0b00110001#8, []⟩ = .ok (.reserved20 0b10001) := by decide
theorem test_decode_reserved40 : decode ref ⟨0b01000011#8, []⟩ = .ok (.reserved40 0b000011) := by decide
theorem test_decode_reserved80 : decode ref ⟨0b10000010#8, []⟩ = .ok (.reserved80 0b0000010) := by decide

/-- Rule R81: of the 256 words, `0x00`, `0x01` and `0x02` are the defined ones, and 253 are reserved. -/
theorem test_reservedWordCount :
    ((List.range 256).filter fun w => match decode ref ⟨BitVec.ofNat 8 w, []⟩ with
      | .ok i => encodeWord i == BitVec.ofNat 8 w && !(i == .nop)
      | .error _ => false).length = 253 := by decide +kernel

/-- The table's numbering: the word is bits 7 to 0, TX_PLAY's `len` bits 15 to 8, its data byte `j` from bit 16 + 8j. -/
theorem test_decodeTableWord :
    decodeTableWord 8 0x00 = some .nop ∧ decodeTableWord 8 0x01 = some (.rxPoll (List.replicate 16 0)) ∧
    decodeTableWord 8 0x02 = some (.txPlay 0 []) ∧ decodeTableWord 32 0x69680202 = some (.txPlay 2 [0x68, 0x69]) ∧
    decodeTableWord 8 0xFF = some (.reserved80 0x7F) := by decide

/-- V9.1 to V9.3 as the first command after reset. -/
theorem test_withFetchWord :
    next? (step (State.reset.withFetchWord 8 0x00)) = next? (exec .nop State.reset) ∧
    next? (step (State.reset.withFetchWord 8 0x01)) = next? (exec (.rxPoll (List.replicate 16 0)) State.reset) ∧
    next? (step (State.reset.withFetchWord 32 0x69680202)) = next? (exec (.txPlay 2 [0x68, 0x69]) State.reset) := by
  decide +kernel

/-! ### One step of each command -/

/-- V9.1. -/
theorem test_nop : next? (exec .nop (st (some 1) (some 6) 3 1 .waitTag [4] 0 [] 16 13)) =
    some { st (some 1) (some 6) 3 1 .waitTag [4] 0 [] 16 13 with response := some ⟨.ok, .empty⟩ } := by decide

/-- V9.8: a reserved word leaves the state, `tx_last` and `tx_slot` among it. -/
theorem test_reserved80 : next? (exec (.reserved80 2) (st (some 1) (some 6) 3 1 .waitTag [4] 0 [] 16 13)) =
    some { st (some 1) (some 6) 3 1 .waitTag [4] 0 [] 16 13 with response := some ⟨.illegal, .empty⟩ } := by decide

/-- The fourth `POLLSYM 1` of rule R232's example. -/
theorem test_rxPoll_confirms :
    pollOf (after (exec (.rxPoll (ideal 1)) (st none (some 1) 3 0 .waitTag [] 0 [] 0 0))) =
      some ⟨some 1, some 1, some 0, some 0, .none, 0, [], some 1, 1, .waitTag⟩ := by decide +kernel

/-- The last confirmation of program P2, poll 99. -/
theorem test_rxPoll_emitsMessage :
    pollOf (after (exec (.rxPoll (ideal 16)) (st (some 14) (some 16) 3 14 .waitChecksum [0] 2 [0x68, 0x69] 0 0))) =
      some ⟨some 16, some 16, some 1, some 1, .message, 2, [0x68, 0x69], some 16, 16, .waitTag⟩ := by decide +kernel

/-- V5.1: the Symbols, and the transmit state; the receive state is kept. -/
theorem test_txPlay_hi :
    symbolsOf (playMessage ref 2 [0x68, 0x69]).1 = [1, 6, 8, 13, 16, 17, 0, 7, 16, 3, 13, 14, 16] ∧
    { after (exec (.txPlay 2 [0x68, 0x69]) (st (some 1) none 0 1 .waitLength [] 0 [] 5 9)) with response := none } =
      st (some 1) none 0 1 .waitLength [] 0 [] 16 13 := by decide +kernel

/-- Program P1, slot 3: `start` 0.6 s and `stop` 0.8 s. -/
theorem test_txPlay_record :
    (playMessage ref 2 [0x68, 0x69]).1[3]? =
      some ⟨3, 4, 13, [3, 2], [toneFreq (ref.alphabet.getD 0 []) 3, toneFreq (ref.alphabet.getD 1 []) 2],
        ⟨3 / 5, .second⟩, ⟨4 / 5, .second⟩⟩ := by
  decide +kernel

/-! ### The components, on the spec's vectors -/

/-- V1.2, V1.3, V1.5, V1.8, V1.10, V1.12, V1.13, V1.14. -/
theorem test_codec :
    (codecEnc ref 13).map Prod.snd = [3, 2] ∧ (codecEnc ref 19).map Prod.snd = [4, 3] ∧
    codecDec ref [4, 3] = .ok 19 ∧ codecDec ref [5, 0] = .error .digitOutOfRange ∧
    (codecEnc (sized [3, 7]) 20).map Prod.snd = [2, 6] ∧ (codecEnc (sized [2, 3, 4]) 7).map Prod.snd = [1, 0, 1] ∧
    codecDec (sized [2, 3, 4]) [1, 2, 3] = .ok 23 ∧ (codecEnc (sized [1, 20]) 7).map Prod.snd = [0, 7] := by
  decide +kernel

/-- V4.3, V4.5, V4.9 for the encoder; V4.12, V4.13, V4.14, V4.16 for the decoder. -/
theorem test_differential :
    diffEncSymbol ref 4 15 = 0 ∧ diffEncSymbol ref 19 15 = 15 ∧ diffEncSymbol (sized [16]) 7 15 = 7 ∧
    diffDecReal ref 17 0 = 2 ∧ diffDecReal ref 19 0 = 0 ∧ diffDecReal ref 0 19 = 18 ∧
    realNibble (diffDecReal ref 0 0) = 3 := by decide

/-- V3.3 to V3.6, V3.8, V3.11, V3.15, V3.16 in validated mode. -/
theorem test_pickValidated :
    pick ref (ideal 13) = some 13 ∧ pick ref (snapshot 10 [(5, 200), (10, 180), (0, 250)]) = none ∧
    pick ref (snapshot 10 [(5, 200), (4, 190), (10, 180)]) = none ∧
    pick ref (snapshot 10 [(3, 200), (5, 200), (10, 200)]) = none ∧
    pick ref (snapshot 10 [(5, 200), (9, 100), (10, 100)]) = some 8 ∧ pick ref (snapshot 0 []) = none ∧
    pick shared (snapshot 10 [(6, 200), (9, 180)]) = none ∧
    pick shared (snapshot 10 [(5, 200), (9, 180)]) = some 8 := by decide +kernel

/-- V3.4, V3.6, V3.10, V3.11 in unvalidated mode. -/
theorem test_pickUnvalidated :
    pick unvalidated (snapshot 10 [(5, 200), (10, 180), (0, 250)]) = some 13 ∧
    pick unvalidated (snapshot 10 [(3, 200), (5, 200), (10, 200)]) = some 11 ∧
    pick unvalidated (snapshot 10 [(4, 200), (5, 200), (10, 180)]) = some 12 ∧
    pick unvalidated (snapshot 0 []) = some 0 := by decide +kernel

/-- V6.1, V6.3, V6.5, V6.6: the states and what is confirmed. -/
theorem test_stabilizer :
    stabRun ref ⟨none, none, 0⟩ [some 1, some 1, some 1, some 1] =
      (⟨some 1, none, 0⟩, [none, none, none, some 1]) ∧
    stabRun ref ⟨some 1, none, 0⟩ [some 6, some 6, none, some 6, some 6, some 6, some 6] =
      (⟨some 6, none, 0⟩, [none, none, none, none, none, none, some 6]) ∧
    stabRun ref ⟨some 1, none, 0⟩ [some 6, some 6, some 6, some 1, some 6] =
      (⟨some 1, some 6, 1⟩, [none, none, none, none, none]) ∧
    (stabRun ref ⟨some 1, none, 0⟩ [some 6, some 7, some 6, some 7]).1 = ⟨some 1, some 7, 1⟩ := by decide

/-- V7.1, V7.3, V7.5, V7.7, V7.12, V7.14, V7.17. -/
theorem test_framing :
    (frameRun ref ⟨.waitTag, [], 0, []⟩ [0, 4, 1, 4, 2]).1 = ⟨.waitLength, [], 0, []⟩ ∧
    (frameRun ref ⟨.waitTag, [], 0, []⟩ [4, 1, 4, 4, 1, 4, 2]).1 = ⟨.waitLength, [], 0, []⟩ ∧
    (frameStep ref ⟨.waitTag, [1, 2, 3, 4], 0, []⟩ 5).1 = ⟨.waitTag, [2, 3, 4, 5], 0, []⟩ ∧
    (frameRun ref ⟨.waitLength, [], 0, []⟩ [0, 0]).1 = ⟨.waitChecksum, [], 0, []⟩ ∧
    frameRun ref ⟨.waitChecksum, [], 2, [0x68, 0x69]⟩ [0, 1] =
      (⟨.waitTag, [], 0, []⟩, [.none, .message [0x68, 0x69]]) ∧
    (frameRun ref ⟨.waitContents, [], 2, []⟩ [4, 1, 4, 2]).1 = ⟨.waitChecksum, [], 2, [0x41, 0x42]⟩ ∧
    (frameRun ref ⟨.waitChecksum, [], 2, [0x68, 0x69]⟩ [1, 0]).2 = [.none, .corrupt] := by decide

/-- V8.1 to V8.7. -/
theorem test_checksum :
    [checksum [], checksum [0x68, 0x69], checksum [0x41, 0x42], checksum [0xFF], checksum [0xAA, 0xAA],
      checksum [1, 2, 4], checksum [0x69, 0x68]] = [0, 1, 3, 0xFF, 0, 7, 1] := by decide

/-- V5.2 to V5.4: the Symbols of other payloads. -/
theorem test_playMessage :
    symbolsOf (playMessage ref 0 []).1 = [1, 6, 8, 13, 16, 17, 18, 19, 0] ∧
    symbolsOf (playMessage ref 1 [0xFF]).1 = [1, 6, 8, 13, 16, 17, 19, 15, 11, 7, 3] ∧
    symbolsOf (playMessage ref 1 [0x00]).1 = [1, 6, 8, 13, 16, 17, 19, 0, 1, 2, 3] := by decide +kernel

/-! ### Witnesses: for each obligation with hypotheses, a concrete state and operands that meet all of them -/

/-- The reset state with one command presented. -/
def presented (p : Presentation) : State := { State.reset with port := [.command p] }

/-- In clause 3 one vote before the threshold, at the end of a message (program P2, poll 99). -/
def beforeMessage : State := st (some 14) (some 16) 3 14 .waitChecksum [0] 2 [0x68, 0x69] 0 0

/-- In clause 3 two votes before the threshold. -/
def twoVotes : State := st none (some 16) 2 0 .waitTag [] 0 [] 0 0

theorem witness_DecodeOfEncodeIsTheCommand :
    Instr.wf ref (.rxPoll (ideal 13)) = true ∧ Instr.wf ref (.txPlay 2 [0x68, 0x69]) = true ∧
    Instr.wf ref (.txPlay 255 (List.replicate 255 0xFF)) = true ∧ Instr.wf ref (.reserved80 0x7F) = true := by
  decide +kernel

theorem witness_DecodedCommandsEncodeBack :
    (decode ref ⟨0x01, ideal 13⟩ = .ok (.rxPoll (ideal 13)) ∧ (0x01 : Byte).toNat < 3) ∧
    (decode ref ⟨0x02, [0]⟩ = .ok (.txPlay 0 []) ∧ (0x02 : Byte).toNat < 3) ∧
    decode ref ⟨0x03, [7]⟩ = .ok .reserved03 := by decide

/-- The first and the last undefined word. -/
theorem witness_UndefinedWordsReportIllegalAndChangeNothing :
    ((presented ⟨0x03, []⟩).port = [.command ⟨0x03, []⟩] ∧ 3 ≤ (0x03 : Byte).toNat) ∧
    ((presented ⟨0xFF, [1]⟩).port = [.command ⟨0xFF, [1]⟩] ∧ 3 ≤ (0xFF : Byte).toNat) := by decide

theorem witness_StepRunsTheDecodedCommand :
    (presented ⟨0x02, [1, 0x41]⟩).port = [.command ⟨0x02, [1, 0x41]⟩] ∧
    decode (presented ⟨0x02, [1, 0x41]⟩).cfg.toConfig ⟨0x02, [1, 0x41]⟩ = .ok (.txPlay 1 [0x41]) := by decide

/-- One presentation for each word, and the magnitude and the length one above their range. -/
theorem witness_MalformedPresentationsAreRefused :
    ((⟨0x00, [0]⟩ : Presentation).operands ≠ []) ∧
    ¬ ((256 :: List.replicate 15 0).length = ref.numBins ∧
        ∀ m ∈ 256 :: List.replicate 15 0, m < 2 ^ ref.magW) ∧
    ¬ ∃ (len : Byte) (data : List Byte), data.length = len.toNat ∧ [256] = len.toNat :: data.map BitVec.toNat := by
  refine ⟨by decide, by decide, ?_⟩
  rintro ⟨len, data, -, h⟩
  have := len.isLt
  simp at h
  omega

theorem witness_OverlappedCommandsAreStuck :
    ({ State.reset with port := [.overlap ⟨0x00, []⟩ ⟨0x02, [0]⟩] } : State).port =
      .overlap ⟨0x00, []⟩ ⟨0x02, [0]⟩ :: [] := rfl

theorem witness_IdleBlockHoldsItsState : State.reset.port = [] := rfl

theorem witness_OptionSymbolBitsSeparateEveryValue :
    (∀ x ∈ some 19, x < ref.pv) ∧ (∀ x ∈ (none : Option Nat), x < ref.pv) ∧ (∀ x ∈ some 0, x < ref.pv) := by
  refine ⟨?_, ?_, ?_⟩ <;> simp [show ref.pv = 20 from by decide]

theorem witness_ResetInputRestoresEveryElement :
    ({ beforeMessage with port := [.reset] } : State).port = .reset :: [] := rfl

/-- The reference configuration meets every check, and one with `PV = 16` fails one. -/
theorem witness_ConstructionAcceptsExactlyLegalConfigurations :
    ref.build = .ok LegalConfig.reference ∧ (sized [16]).firstError = some .tooFewValues ∧
    (sized [16]).build = .error .tooFewValues := by decide +kernel

theorem witness_NoStepChangesTheConfiguration : ∃ t, step (presented ⟨0x02, [0]⟩) = .next t := ⟨_, rfl⟩

/-- The largest Symbol, vote count and slot, and a payload. -/
theorem witness_DeclaredWidthsHoldEveryValue :
    (st (some 19) (some 18) 3 19 .waitChecksum [15] 2 [0x68, 0x69] 19 519).Inv := by decide +kernel

/-- The three clauses: digits at their maximum, a digit one above it, and a digit too few. -/
theorem witness_CodecDecSumsInRangeDigitsAndRefusesOthers :
    ([4, 3].length = ref.n ∧ ∀ k, k < ref.n → [4, 3].getD k 0 < ref.sizes.getD k 0) ∧
    ([4, 4].length = ref.n ∧ ∃ k, k < ref.n ∧ ref.sizes.getD k 0 ≤ [4, 4].getD k 0) ∧ [4].length ≠ ref.n := by
  exact ⟨by decide, ⟨by decide, 1, by decide⟩, by decide⟩

theorem witness_CodecIsABijection : 19 < ref.pv ∧ codecDec ref [4, 3] = .ok 19 := by decide

theorem witness_DifferentSymbolsSoundDifferentTones : 0 < ref.pv ∧ 19 < ref.pv ∧ 0 ≠ 19 := by decide

theorem witness_DiffEncAddsTheNibblePlusOne :
    (⟨19, 0⟩ : ModulatorState).txLast = ref.pv - 1 ∧ (0 : Nibble) = 0#4 := by decide

/-- Both cases: a Symbol above `rx_last`, and one equal to it. -/
theorem witness_DiffDecSubtractsTheLastSymbol :
    ((⟨18⟩ : DemodulatorState).rxLast < ref.pv ∧ 19 < ref.pv ∧ (⟨18⟩ : DemodulatorState).rxLast < 19) ∧
    ((⟨19⟩ : DemodulatorState).rxLast < ref.pv ∧ 19 < ref.pv ∧ 19 ≤ (⟨19⟩ : DemodulatorState).rxLast) := by decide

theorem witness_RealValueClosedFormAndNibble : 0 < ref.pv ∧ 19 < ref.pv := by decide

theorem witness_DiffEncNeverRepeatsASymbol : (⟨19, 0⟩ : ModulatorState).txLast < ref.pv := by decide

theorem witness_DifferentialRoundTripRecoversTheNibbles : (⟨16, 13⟩ : ModulatorState).txLast < ref.pv := by decide

theorem witness_ReservedRowsRespondIllegalAndWriteNoState :
    Instr.reserved04 0 ∈ [Instr.reserved03, .reserved04 0, .reserved08 0, .reserved10 0, .reserved20 0,
      .reserved40 0, .reserved80 0] := by decide

theorem witness_EveryReceivableCommandCompletes :
    Instr.nop.wf State.reset.cfg.toConfig = true ∧ (Instr.rxPoll (ideal 0)).wf State.reset.cfg.toConfig = true ∧
    (Instr.txPlay 0 []).wf State.reset.cfg.toConfig = true ∧
    (Instr.reserved40 0).wf State.reset.cfg.toConfig = true := by decide

/-- Each of the four clauses: TX_PLAY writes `mod`, and the poll before a message writes the other three. -/
theorem witness_EveryElementIsWrittenOnlyByItsOwner :
    (∃ t, exec (.txPlay 0 []) State.reset = .next t ∧ t.mod ≠ State.reset.mod) ∧
    (∃ t, exec (.rxPoll (ideal 16)) beforeMessage = .next t ∧ t.stab ≠ beforeMessage.stab ∧
      t.demod ≠ beforeMessage.demod ∧ t.frame ≠ beforeMessage.frame) :=
  ⟨⟨_, rfl, by decide +kernel⟩, ⟨_, rfl, by decide +kernel⟩⟩

theorem witness_TransmitAndReceiveStateAreDisjoint :
    (∃ t, exec (.rxPoll (ideal 16)) beforeMessage = .next t) ∧ ∃ t, exec (.txPlay 1 [0x41]) beforeMessage = .next t :=
  ⟨⟨_, rfl⟩, ⟨_, rfl⟩⟩

/-- With the first and the last byte of the tag and of the payload, the first Mark, and the Mark that wraps past `PV`. -/
theorem witness_MessageStreamHasTheWireLayout :
    [0x68, 0x69].length = (2 : Byte).toNat ∧ ref.tag[0]? = some 0x41 ∧ ref.tag[1]? = some 0x42 ∧
    ([0x68, 0x69] : List Byte)[0]? = some 0x68 ∧ ([0x68, 0x69] : List Byte)[1]? = some 0x69 ∧
    (playMessage ref 2 [0x68, 0x69]).1[0]? = some (scheduleRecord ref 0 0 1) ∧
    (playMessage ref 2 [0x68, 0x69]).1[6]? = some (scheduleRecord ref 6 2 0) := by decide +kernel

/-- The empty payload and the longest one, with the first and the last record. -/
theorem witness_TxPlayReturnsTheWholeSchedule :
    ([] : List Byte).length = (0 : Byte).toNat ∧ (List.replicate 255 (0 : Byte)).length = (255 : Byte).toNat ∧
    (playMessage ref 0 []).1[0]? = some (scheduleRecord ref 0 0 1) ∧
    (playMessage ref 0 []).1[8]? = some (scheduleRecord ref 8 0 0) := by decide +kernel

theorem witness_TxPlayLeavesLastSymbolAndMarkCount :
    ([] : List Byte).length = (0 : Byte).toNat ∧ (List.replicate 255 (0 : Byte)).length = (255 : Byte).toNat := by
  decide +kernel

/-- Both sides of the equivalence: V3.3 (`d = [3, 2]`), and V3.5, where no digits meet it. -/
theorem witness_ValidatedPickIsTheOneClearTonePerSet :
    pickValidated ref (ideal 13) = some 13 ∧ pickValidated ref (snapshot 10 [(5, 200), (4, 190), (10, 180)]) = none := by
  decide +kernel

theorem witness_PickFollowsItsModeAndStaysInRange :
    LegalConfig.reference.pickMode = .validated ∧ unvalidatedLegal.pickMode = .unvalidated ∧
    pick ref (ideal 19) = some 19 := by decide +kernel

theorem witness_PickDependsOnlyOnTheOrderOfMagnitudes :
    snapshotOk ref (ideal 13) = true ∧ StrictMono (fun m : Nat => 2 * m + 1) :=
  ⟨by decide, fun a b h => by dsimp only; omega⟩

theorem witness_AmbiguousPollClearsTheCandidate :
    snapshotOk beforeMessage.cfg.toConfig (snapshot 0 []) = true ∧
    pick beforeMessage.cfg.toConfig (snapshot 0 []) = none := by decide +kernel

theorem witness_SteadyPollClearsTheCandidate :
    snapshotOk beforeMessage.cfg.toConfig (ideal 14) = true ∧ pick beforeMessage.cfg.toConfig (ideal 14) = some 14 ∧
    beforeMessage.stab.active = some 14 := by decide +kernel

/-- Both clauses: the vote that reaches the threshold, and the one before it. -/
theorem witness_RepeatedCandidateVotesAndConfirms :
    (snapshotOk beforeMessage.cfg.toConfig (ideal 16) = true ∧
      pick beforeMessage.cfg.toConfig (ideal 16) = some 16 ∧ beforeMessage.stab.active ≠ some 16 ∧
      beforeMessage.stab.cand = some 16 ∧ beforeMessage.stab.votes + 1 = beforeMessage.cfg.cycleThreshold) ∧
    (snapshotOk twoVotes.cfg.toConfig (ideal 16) = true ∧ pick twoVotes.cfg.toConfig (ideal 16) = some 16 ∧
      twoVotes.stab.active ≠ some 16 ∧ twoVotes.stab.cand = some 16 ∧
      twoVotes.stab.votes + 1 ≠ twoVotes.cfg.cycleThreshold) := by
  decide +kernel

theorem witness_OtherSymbolStartsANewCandidate :
    snapshotOk beforeMessage.cfg.toConfig (ideal 7) = true ∧ pick beforeMessage.cfg.toConfig (ideal 7) = some 7 ∧
    beforeMessage.stab.active ≠ some 7 ∧ beforeMessage.stab.cand ≠ some 7 := by decide +kernel

/-- Both cases: a poll that confirms, and one that does not. -/
theorem witness_ConfirmationRunsDecoderThenFraming :
    snapshotOk ref (ideal 16) = true ∧ (stabStep ref beforeMessage.stab (pick ref (ideal 16))).2 = some 16 ∧
    snapshotOk ref (ideal 7) = true ∧ (stabStep ref beforeMessage.stab (pick ref (ideal 7))).2 = none := by
  decide +kernel

/-- The three events: a message, a corrupted one (P3), and none. -/
theorem witness_RxPollResponseFields :
    snapshotOk ref (ideal 16) = true ∧
    (frameStep ref beforeMessage.frame (realNibble (diffDec ref beforeMessage.demod 16).1)).2 =
      .message [0x68, 0x69] ∧
    (frameStep ref beforeMessage.frame (realNibble (diffDec ref beforeMessage.demod 17).1)).2 = .corrupt ∧
    (frameStep ref State.reset.frame (realNibble (diffDec ref State.reset.demod 1).1)).2 = .none := by decide +kernel

theorem witness_EventsComeOnlyFromACompletedChecksum :
    ∃ t p, exec (.rxPoll (ideal 16)) beforeMessage = .next t ∧ t.response = some ⟨.ok, .poll p⟩ ∧ p.event ≠ .none :=
  ⟨_, _, rfl, rfl, by decide +kernel⟩

theorem witness_RunOfReadingsConfirmsExactlyOnce :
    (⟨some 1, some 7, 2⟩ : StabilizerState).cand ≠ some 6 ∧ (⟨some 1, some 7, 2⟩ : StabilizerState).active ≠ some 6 := by
  decide

theorem witness_ConfirmationsAreSpacedByTheThreshold :
    (stabStep ref ⟨some 1, some 6, 3⟩ (some 6)).2 = some 6 ∧ [some 7, some 7, some 7].length < ref.cycleThreshold ∧
    none ∈ (stabRun ref (stabStep ref ⟨some 1, some 6, 3⟩ (some 6)).1 [some 7, some 7, some 7]).2 := by decide

/-- Both clauses: the example of rule R201, and V7.5. -/
theorem witness_TagWindowSlidesAndMatches :
    ((⟨.waitTag, [0, 4, 1, 4], 0, []⟩ : FrameState).mode = .waitTag ∧ slideWindow ref [0, 4, 1, 4] 2 = tagNibbles ref) ∧
    slideWindow ref [1, 2, 3, 4] 5 ≠ tagNibbles ref := by decide

/-- The three clauses: any first nibble, `L = 0`, and `L = 1`. -/
theorem witness_LengthByteSelectsTheNextMode :
    (⟨.waitLength, [], 0, []⟩ : FrameState).mode = .waitLength ∧ (⟨.waitLength, [], 0, []⟩ : FrameState).buf = [] ∧
    ((0 : Nibble) = 0#4 ∧ (0 : Nibble) = 0#4) ∧ ¬ ((0 : Nibble) = 0#4 ∧ (1 : Nibble) = 0#4) := by decide

/-- Both clauses, on the last nibble of `L = 1` and the one before it. -/
theorem witness_ContentsPairIntoThePayload :
    (⟨.waitContents, [], 1, []⟩ : FrameState).mode = .waitContents ∧
    (⟨.waitContents, [], 1, []⟩ : FrameState).buf.length + 1 ≠ 2 * (1 : Byte).toNat ∧
    (⟨.waitContents, [6], 1, []⟩ : FrameState).buf.length + 1 = 2 * (1 : Byte).toNat := by decide

theorem witness_ChecksumByteGivesTheVerdict :
    (⟨.waitChecksum, [], 2, [0x68, 0x69]⟩ : FrameState).mode = .waitChecksum ∧
    (⟨.waitChecksum, [], 2, [0x68, 0x69]⟩ : FrameState).buf = [] := by decide

/-- The lengths 0 and 255. -/
theorem witness_MessageEventComesOnItsLastNibble :
    ([] : List Byte).length = (0 : Byte).toNat ∧ (List.replicate 255 (0 : Byte)).length = (255 : Byte).toNat := by
  decide +kernel

/-- Both clauses: a wrong payload byte, and a wrong checksum byte. -/
theorem witness_OneWrongByteIsReportedCorrupt :
    ([0x68, 0x69] : List Byte).length = (2 : Byte).toNat ∧
    (([0x68, 0x69] : List Byte)[1]? = some 0x69 ∧ (0x68 : Byte) ≠ 0x69) ∧
    (0x02 : Byte) ≠ checksum [0x68, 0x69] := by decide

theorem witness_ChecksumIsTheXorInAnyOrder : ([0x68, 0x69] : List Byte).Perm [0x69, 0x68] := by decide

theorem witness_TagIsSearchedForOnlyInWaitTag : (⟨.waitContents, [4, 1, 4], 2, []⟩ : FrameState).mode ≠ .waitTag := by
  decide

theorem witness_EveryStepKeepsTheInvariants :
    ∃ s t : State, s.Inv ∧ step s = .next t ∧ s.stab.votes = 3 :=
  ⟨{ beforeMessage with port := [.command ⟨0x01, ideal 16⟩] }, _, by decide +kernel, rfl, rfl⟩

/-- A session in the reference configuration that polls each Mark of an empty message four times. -/
def listening : State :=
  { State.reset with
    port := (symbolsOf (playMessage ref 0 []).1).flatMap fun r =>
      List.replicate 4 (.command (encode (.rxPoll (ideal r)))) }

theorem witness_TransmittedMessageIsReceived :
    listening.Inv ∧ listening.frame = { mode := .waitTag, buf := [], len := 0#8, payload := [] } ∧
    ([] : List Byte).length ≤ 255 ∧ (∀ n, tagNibbles ref ≠ List.replicate (2 * ref.tagLen) n) ∧
    ref.cycleThreshold ≤ 4 ∧ (∀ r, r < ref.pv → snapshotOk ref (ideal r) = true ∧ pick ref (ideal r) = some r) ∧
    listening.port = (symbolsOf (playMessage ref (BitVec.ofNat 8 ([] : List Byte).length) []).1).flatMap
      (fun r => List.replicate 4 (.command (encode (.rxPoll (ideal r))))) :=
  ⟨by decide +kernel, rfl, by decide, by decide, by decide, by decide +kernel, rfl⟩

theorem witness_MarkSecondsMayBeAnyPositiveReal : (0 : ℝ) < 1 := one_pos

end Sys2Proof.Tests
end

/-! SUPPORT. Which command writes which state element (rule R35), and the isolation of transmit state from receive
state (rule R36). -/

namespace Sys2Proof.Machine

/-- The converse of `execTxPlay_next`: a TX_PLAY that answers had as many data bytes as its length says. -/
theorem execTxPlay_eq_next (len : Byte) (data : List Byte) (s t : State) (h : execTxPlay len data s = .next t) :
    data.length = len.toNat ∧
      t = (s.withMod (playMessage s.cfg.toConfig len data).2).respond .ok
        (.play (playMessage s.cfg.toConfig len data).1) := by
  by_cases hlen : data.length = len.toNat
  · rw [execTxPlay_next len data s hlen] at h
    exact ⟨hlen, (Host.Outcome.next.inj h).symm⟩
  · simp [execTxPlay, payloadOk_iff, hlen] at h

/-- Everything a command that answers can have done: NOP and the RESERVED rows only respond, RX_POLL runs the receive
pipeline, and TX_PLAY writes ModulatorState (rule R230). -/
theorem exec_next_cases (i : Instr) (s t : State) (h : exec i s = .next t) :
    (∃ status, t = s.respond status .empty) ∨
    (∃ mag, i = .rxPoll mag ∧ snapshotOk s.cfg.toConfig mag = true ∧ t = receive (pick s.cfg.toConfig mag) s) ∨
    (∃ len data, i = .txPlay len data ∧ data.length = len.toNat ∧
      t = (s.withMod (playMessage s.cfg.toConfig len data).2).respond .ok
        (.play (playMessage s.cfg.toConfig len data).1)) := by
  cases i with
  | nop => exact .inl ⟨.ok, (Host.Outcome.next.inj h).symm⟩
  | rxPoll mag => exact .inr (.inl ⟨mag, rfl, execRxPoll_eq_next s mag t h⟩)
  | txPlay len data => exact .inr (.inr ⟨len, data, rfl, execTxPlay_eq_next len data s t h⟩)
  | reserved03 | reserved04 | reserved08 | reserved10 | reserved20 | reserved40 | reserved80 =>
    exact .inl ⟨.illegal, (Host.Outcome.next.inj h).symm⟩

/-- The receive pipeline does not read ModulatorState. -/
theorem receive_withMod (raw : Option Nat) (s : State) (m : ModulatorState) :
    receive raw (s.withMod m) = (receive raw s).withMod m := by
  cases h : (stabStep s.cfg.toConfig s.stab raw).2 with
  | none => rw [receive_unconfirmed raw s h, receive_unconfirmed raw (s.withMod m) h]; rfl
  | some r => rw [receive_confirmed raw s r h, receive_confirmed raw (s.withMod m) r h]; rfl

theorem execRxPoll_withMod (mag : List Nat) (s t : State) (m : ModulatorState) (h : execRxPoll mag s = .next t) :
    execRxPoll mag (s.withMod m) = .next (t.withMod m) := by
  obtain ⟨hmag, rfl⟩ := execRxPoll_eq_next s mag t h
  rw [execRxPoll_next (s.withMod m) mag hmag, State.withMod_cfg, receive_withMod]

/-- TX_PLAY does not read receive state. -/
theorem execTxPlay_withReceiveState (len : Byte) (data : List Byte) (s t : State) (st : StabilizerState)
    (d : DemodulatorState) (f : FrameState) (h : execTxPlay len data s = .next t) :
    execTxPlay len data (((s.withStab st).withDemod d).withFrame f) =
      .next (((t.withStab st).withDemod d).withFrame f) := by
  obtain ⟨hlen, rfl⟩ := execTxPlay_eq_next len data s t h
  rw [execTxPlay_next len data _ hlen]
  rfl

/-- Settles O29: NOP and the RESERVED rows only respond, a poll writes the receive elements as `receive_stab` and
`receive_cases` say, and TX_PLAY writes ModulatorState alone. -/
theorem everyElementIsWrittenOnlyByItsOwner : Obligations.EveryElementIsWrittenOnlyByItsOwner := by
  intro i s t h
  obtain ⟨status, rfl⟩ | ⟨mag, rfl, -, rfl⟩ | ⟨len, data, rfl, -, rfl⟩ := exec_next_cases i s t h
  · simp
  · refine ⟨fun hmod => absurd (receive_mod _ s) hmod, fun _ => ⟨mag, rfl, receive_stab _ s⟩, ?_⟩
    obtain ⟨r, hconf, hdemod, hframe⟩ | ⟨-, hdemod, hframe⟩ := receive_cases (pick s.cfg.toConfig mag) s
    · exact ⟨fun _ => ⟨mag, r, rfl, hconf, hdemod⟩, fun _ => ⟨mag, r, rfl, hconf, hframe⟩⟩
    · exact ⟨fun hne => absurd hdemod hne, fun hne => absurd hframe hne⟩
  · simp

/-- Settles O30: neither command writes the other's state, and each commutes with a write of it. -/
theorem transmitAndReceiveStateAreDisjoint : Obligations.TransmitAndReceiveStateAreDisjoint := by
  constructor
  · intro s t mag m h
    obtain ⟨-, ht⟩ := execRxPoll_eq_next s mag t h
    exact ⟨by rw [ht, receive_mod], execRxPoll_withMod mag s t m h⟩
  · intro s t len data st d f h
    obtain ⟨-, ht⟩ := execTxPlay_eq_next len data s t h
    exact ⟨by simp [ht], by simp [ht], by simp [ht], execTxPlay_withReceiveState len data s t st d f h⟩

end Sys2Proof.Machine

/-! SUPPORT. The wire layout of a message (rule R74): its nibble stream is the resync nibble and then the nibble pairs
of one byte sequence, and its schedule has one differentially encoded Mark per nibble of that stream. -/

namespace Sys2Proof.Machine

/-- Settles O11: `byteNibbles` is the pair by definition; the rest is the arithmetic of the split and the join. -/
theorem bytesSplitAndJoinHighNibbleFirst : Obligations.BytesSplitAndJoinHighNibbleFirst :=
  ⟨fun b => ⟨rfl, highNibble_toNat b, lowNibble_toNat b, joinNibbles_split b⟩, joinNibbles_toNat⟩

theorem bytesNibbles_append (p q : List Byte) : bytesNibbles (p ++ q) = bytesNibbles p ++ bytesNibbles q :=
  List.flatMap_append

/-- Byte `j` of a sequence stands at positions `2j` and `2j + 1` of its nibble form, high nibble first (rule R53). -/
theorem bytesNibbles_getElem? (p : List Byte) (j : Nat) (b : Byte) (h : p[j]? = some b) :
    (bytesNibbles p)[2 * j]? = some (highNibble b) ∧ (bytesNibbles p)[2 * j + 1]? = some (lowNibble b) := by
  induction p generalizing j with
  | nil => simp at h
  | cons a p ih =>
    cases j with
    | zero =>
      obtain rfl : a = b := by simpa using h
      simp
    | succ j => simpa [Nat.mul_succ] using ih j (by simpa using h)

/-- The bytes of one message in the order of rule R74: tag, length, payload, checksum. -/
def messageBytes (c : Config) (len : Byte) (data : List Byte) : List Byte :=
  (c.tag ++ [len]) ++ (data ++ [checksum data])

section WireLayout

variable (c : Config) (len : Byte) (data : List Byte)

theorem messageStream_eq_messageBytes :
    messageStream c len data = 0#4 :: bytesNibbles (messageBytes c len data) := by
  simp [messageStream, messageBytes, tagNibbles, byteNibbles, bytesNibbles_append]

/-- The resync nibble moves byte `j` of the message to positions `2j + 1` and `2j + 2` of the stream. -/
theorem messageStream_getElem? (j : Nat) (b : Byte) (h : (messageBytes c len data)[j]? = some b) :
    (messageStream c len data)[2 * j + 1]? = some (highNibble b) ∧
      (messageStream c len data)[2 * j + 2]? = some (lowNibble b) := by
  simpa [messageStream_eq_messageBytes] using bytesNibbles_getElem? _ j b h

theorem messageBytes_tag (j : Nat) (b : Byte) (h : c.tag[j]? = some b) :
    (messageBytes c len data)[j]? = some b := by
  obtain ⟨hj, -⟩ := List.getElem?_eq_some_iff.mp h
  simp [messageBytes, List.getElem?_append_left hj, h]

theorem messageBytes_length_byte : (messageBytes c len data)[c.tag.length]? = some len := by
  simp [messageBytes]

theorem messageBytes_after_length (j : Nat) :
    (messageBytes c len data)[c.tag.length + 1 + j]? = (data ++ [checksum data])[j]? := by
  rw [messageBytes, List.getElem?_append_right (by simp)]
  simp

/-- After the length byte's two nibbles come the payload's and the checksum's. -/
theorem messageStream_after_length (j : Nat) (b : Byte) (h : (data ++ [checksum data])[j]? = some b) :
    (messageStream c len data)[2 * c.tag.length + 3 + 2 * j]? = some (highNibble b) ∧
      (messageStream c len data)[2 * c.tag.length + 4 + 2 * j]? = some (lowNibble b) := by
  have hhigh : 2 * c.tag.length + 3 + 2 * j = 2 * (c.tag.length + 1 + j) + 1 := by omega
  have hlow : 2 * c.tag.length + 4 + 2 * j = 2 * (c.tag.length + 1 + j) + 2 := by omega
  rw [hhigh, hlow]
  exact messageStream_getElem? c len data _ b (by rw [messageBytes_after_length, h])

theorem messageStream_data (j : Nat) (b : Byte) (h : data[j]? = some b) :
    (messageStream c len data)[2 * c.tag.length + 3 + 2 * j]? = some (highNibble b) ∧
      (messageStream c len data)[2 * c.tag.length + 4 + 2 * j]? = some (lowNibble b) := by
  obtain ⟨hj, -⟩ := List.getElem?_eq_some_iff.mp h
  exact messageStream_after_length c len data j b (by rw [List.getElem?_append_left hj, h])

theorem messageStream_checksum :
    (messageStream c len data)[2 * c.tag.length + 3 + 2 * data.length]? = some (highNibble (checksum data)) ∧
      (messageStream c len data)[2 * c.tag.length + 4 + 2 * data.length]? = some (lowNibble (checksum data)) :=
  messageStream_after_length c len data data.length _ (by simp)

end WireLayout

/-- The schedule has one Mark per nibble, in stream order (rule R140). -/
@[simp] theorem scheduleMarks_map_nibble (c : Config) (m : ModulatorState) (ns : List Nibble) :
    (scheduleMarks c m ns).1.map ScheduleRecord.nibble = ns := by
  induction ns generalizing m with
  | nil => rfl
  | cons n ns ih => simp [scheduleMarks_cons, scheduleRecord, ih]

/-- The Symbols of a schedule, one turn of the loop at a time (rules R120, R140). -/
theorem symbolsOf_scheduleMarks_cons (c : Config) (m : ModulatorState) (n : Nibble) (ns : List Nibble) :
    symbolsOf (scheduleMarks c m (n :: ns)).1 =
      diffEncSymbol c m.txLast n ::
        symbolsOf (scheduleMarks c ⟨diffEncSymbol c m.txLast n, m.txSlot + 1⟩ ns).1 := rfl

/-- Each Symbol encodes its Mark's nibble against the Symbol before it, `tx_last` before the first (rule R120). -/
theorem scheduleMarks_sym (c : Config) (m : ModulatorState) (ns : List Nibble) (i : Nat) (r : ScheduleRecord)
    (h : (scheduleMarks c m ns).1[i]? = some r) :
    r.sym = diffEncSymbol c ((m.txLast :: symbolsOf (scheduleMarks c m ns).1).getD i 0) r.nibble := by
  induction ns generalizing m i with
  | nil => simp at h
  | cons n ns ih =>
    rw [scheduleMarks_cons] at h
    cases i with
    | zero =>
      obtain rfl := Option.some.inj h
      rfl
    | succ i => exact ih _ i h

/-- Differential decoding from the encoder's `tx_last` gives the nibbles of a schedule back (rule R125). -/
theorem decodeAll_symbolsOf_scheduleMarks (c : LegalConfig) (m : ModulatorState) (ns : List Nibble)
    (h : m.txLast < c.pv) :
    decodeAll c.toConfig m.txLast (symbolsOf (scheduleMarks c.toConfig m ns).1) = ns.map BitVec.toNat := by
  induction ns generalizing m with
  | nil => rfl
  | cons n ns ih =>
    rw [symbolsOf_scheduleMarks_cons, decodeAll, diffDecReal_diffEncSymbol c m.txLast n h, List.map_cons]
    exact congrArg (n.toNat :: ·) (ih ⟨_, m.txSlot + 1⟩ (diffEncSymbol_lt c m.txLast n))

/-- Settles O31: the positions come from the message's bytes by `messageStream_getElem?`, and the schedule's Symbols
from `scheduleMarks` run from `tx_last = 0`. -/
theorem messageStreamHasTheWireLayout : Obligations.MessageStreamHasTheWireLayout := by
  intro c len data h st t l
  obtain ⟨hlenHigh, hlenLow⟩ :=
    messageStream_getElem? c.toConfig len data t len (messageBytes_length_byte _ len data)
  obtain ⟨hsumHigh, hsumLow⟩ := h ▸ messageStream_checksum c.toConfig len data
  refine ⟨?_, rfl, fun j b hb => messageStream_getElem? _ len data j b (messageBytes_tag _ len data j b hb),
    hlenHigh, hlenLow, messageStream_data c.toConfig len data, hsumHigh, hsumLow,
    scheduleMarks_map_nibble _ _ _, scheduleMarks_sym _ _ _, decodeAll_symbolsOf_scheduleMarks c ⟨0, 0⟩ st ?_⟩
  · exact messageStream_length c.toConfig len data h
  · exact Nat.zero_lt_of_lt c.pv_ge

end Sys2Proof.Machine

/-! SUPPORT. The digits and tones of `CODEC_ENC` in closed form (rule R101). -/

namespace Sys2Proof.Machine

/-- The loop divides by the sizes of the sets passed so far, one after the other: the value it has left at set `k` is
`x` divided by their product. -/
theorem encodeSets_eq_range_map (sets : List FrequencySet) (x : Nat) :
    encodeSets sets x = (List.range sets.length).map fun k =>
      let set := sets.getD k []
      let d := x / ((sets.take k).map List.length).prod % set.length
      (toneFreq set d, d) := by
  induction sets generalizing x with
  | nil => rfl
  | cons set rest ih =>
    rw [encodeSets, ih, List.length_cons, List.range_succ_eq_map, List.map_cons, List.map_map]
    simp [Function.comp_def, Nat.div_div_eq_div_mul]

/-- Settles O17, by induction on the FrequencySets: the loop itself has no bound on `s`, and no check of the
configuration is needed. -/
theorem codecEncGivesMixedRadixDigits : Obligations.CodecEncGivesMixedRadixDigits :=
  fun c s => encodeSets_eq_range_map c.alphabet s

end Sys2Proof.Machine

/-! SUPPORT. The differential encoder and decoder on their states (rules R120, R121). -/

namespace Sys2Proof.Machine

/-- Adding one to the last Symbol `PV - 1` wraps to 0 (rule R120). -/
theorem diffEncSymbol_pred_pv_zero (c : LegalConfig) : diffEncSymbol c.toConfig (c.pv - 1) 0#4 = 0 := by
  have hpv : c.pv - 1 + (0#4).toNat + 1 = c.pv := Nat.sub_add_cancel (Nat.zero_lt_of_lt c.pv_ge)
  rw [diffEncSymbol, hpv, Nat.mod_self]

/-- Settles O21: the returned Symbol and state are `diffEnc` by definition, and the wrap is
`diffEncSymbol_pred_pv_zero`. -/
theorem diffEncAddsTheNibblePlusOne : Obligations.DiffEncAddsTheNibblePlusOne := by
  refine fun c m v => ⟨rfl, fun hlast hv => ?_⟩
  rw [diffEnc, hlast, hv]
  exact diffEncSymbol_pred_pv_zero c

/-- Settles O22: `rx_last` is the Symbol by definition, and the two cases of `diffDecReal_cases` exclude each other. -/
theorem diffDecSubtractsTheLastSymbol : Obligations.DiffDecSubtractsTheLastSymbol := by
  intro c d value hlast _
  obtain ⟨hlt, hreal⟩ | ⟨hle, hreal⟩ := diffDecReal_cases c d.rxLast value hlast
  · exact ⟨rfl, fun _ => hreal, fun hle => absurd hlt hle.not_gt⟩
  · exact ⟨rfl, fun hlt => absurd hlt hle.not_gt, fun _ => hreal⟩

end Sys2Proof.Machine

/-! SUPPORT. The range of the picker's results (rule R168): in either mode every set adds at most one digit below its
size. -/

namespace Sys2Proof.Machine

/-- One digit per set, each within its set, weighs less than `PV` (rules R71, R162). -/
theorem weighDigits_lt (c : Config) (d : List Nat) (h : List.Forall₂ (· < ·) d c.sizes) :
    weighDigits c d < c.pv := by
  rw [weighDigits_eq_weighSizes c d ((forall₂_digits c d).mp h).1]
  exact weighSizes_lt c.sizes d h

theorem bestDigit_lt (mag : List Nat) (set : FrequencySet) (h : 1 ≤ set.length) :
    bestDigit mag set < set.length := by
  refine List.foldlRecOn (motive := (· < set.length)) _ _ h fun best hbest i hi => ?_
  have hset : i < set.length := by
    rw [List.mem_range'_1] at hi
    omega
  split
  · exact hset
  · exact hbest

theorem pickUnvalidated_lt (c : LegalConfig) (mag : List Nat) : pickUnvalidated c.toConfig mag < c.pv := by
  refine weighDigits_lt c.toConfig _ ?_
  rw [Config.sizes, List.forall₂_map_left_iff, List.forall₂_map_right_iff, List.forall₂_same]
  exact fun set hset => bestDigit_lt mag set (c.set_length_pos set hset)

/-- The weight of the largest digit of set `k`. -/
def topWeight (c : Config) (k : Nat) : Nat := (c.sizes.getD k 0 - 1) * c.mult k

/-- The most that the sets not in `seen` can still add to the accumulator of `PICK_VALIDATED`. -/
def unseenWeight (c : Config) (seen : List Nat) : Nat :=
  ∑ k ∈ Finset.range c.n \ seen.toFinset, topWeight c k

/-- The largest digits of all sets together weigh less than `PV`. -/
theorem unseenWeight_nil_lt (c : LegalConfig) : unseenWeight c.toConfig [] < c.pv := by
  have htop : unseenWeight c.toConfig [] = weighDigits c.toConfig (c.sizes.map (· - 1)) := by
    have hget (k : Nat) : (c.sizes.map (· - 1)).getD k 0 = c.sizes.getD k 0 - 1 := 
      List.getD_map c.sizes 0 (· - 1)
    simp only [unseenWeight, topWeight, weighDigits, hget, List.toFinset_nil, Finset.sdiff_empty]
    rfl
  rw [htop]
  refine weighDigits_lt c.toConfig _ ?_
  rw [List.forall₂_map_left_iff, List.forall₂_same, Config.sizes, List.forall_mem_map]
  exact fun set hset => Nat.sub_lt (c.set_length_pos set hset) one_pos

/-- Taking a new set `k` moves its largest weight out of what is left. -/
theorem unseenWeight_cons (c : Config) (seen : List Nat) (k : Nat) (hk : k < c.n) (hseen : k ∉ seen) :
    topWeight c k + unseenWeight c (k :: seen) = unseenWeight c seen := by
  have hmem : k ∈ Finset.range c.n \ seen.toFinset := by simp [hk, hseen]
  rw [unseenWeight, unseenWeight, List.toFinset_cons, Finset.sdiff_insert]
  exact Finset.add_sum_erase _ _ hmem

/-- An owner of a bin is a digit of a set of the alphabet (rule R161). -/
theorem digit_of_mem_owners (c : Config) (b k i : Nat) (h : (k, i) ∈ owners c b) :
    k < c.n ∧ i < c.sizes.getD k 0 := by
  obtain ⟨set, hset, t, ht, -⟩ := (mem_owners c b (k, i)).mp h
  obtain ⟨hk, -⟩ := List.getElem?_eq_some_iff.mp hset
  obtain ⟨hi, -⟩ := List.getElem?_eq_some_iff.mp ht
  have hsize : c.sizes.getD k 0 = set.length := by simp [Config.sizes, List.getD_eq_getElem?_getD, hset]
  exact ⟨hk, hsize ▸ hi⟩

/-- The loop of `PICK_VALIDATED` adds one digit of each set it meets for the first time, and of no other. -/
theorem collectDigits_le (c : Config) (sel seen : List Nat) (acc r : Nat)
    (h : collectDigits c sel seen acc = some r) : r ≤ acc + unseenWeight c seen := by
  induction sel generalizing seen acc with
  | nil =>
    obtain rfl : acc = r := Option.some.inj h
    exact Nat.le_add_right acc _
  | cons b sel ih =>
    rw [collectDigits] at h
    split at h
    · next k i hown =>
      split at h
      · contradiction
      · next hseen =>
        obtain ⟨hk, hi⟩ := digit_of_mem_owners c b k i (by simp [hown])
        have hdigit : i * c.mult k ≤ topWeight c k := Nat.mul_le_mul_right _ (Nat.le_sub_one_of_lt hi)
        have hrest := unseenWeight_cons c seen k hk hseen
        have hloop := ih (k :: seen) _ h
        omega
    · contradiction

theorem pickValidated_lt (c : LegalConfig) (mag : List Nat) (r : Nat)
    (h : pickValidated c.toConfig mag = some r) : r < c.pv :=
  calc r ≤ 0 + unseenWeight c.toConfig [] := collectDigits_le c.toConfig _ [] 0 r h
    _ = unseenWeight c.toConfig [] := Nat.zero_add _
    _ < c.pv := unseenWeight_nil_lt c

theorem pick_validated (c : Config) (mag : List Nat) (h : c.pickMode = .validated) :
    pick c mag = pickValidated c mag := by
  simp only [pick, h]

theorem pick_unvalidated (c : Config) (mag : List Nat) (h : c.pickMode = .unvalidated) :
    pick c mag = some (pickUnvalidated c mag) := by
  simp only [pick, h]

/-- Rule R168. -/
theorem pick_lt (c : LegalConfig) (mag : List Nat) (r : Nat) (h : pick c.toConfig mag = some r) : r < c.pv := by
  cases hmode : c.pickMode with
  | validated =>
    rw [pick_validated c.toConfig mag hmode] at h
    exact pickValidated_lt c mag r h
  | unvalidated =>
    rw [pick_unvalidated c.toConfig mag hmode] at h
    exact Option.some.inj h ▸ pickUnvalidated_lt c mag

/-- Settles O38: one equation of `pick` per mode, and the range of each policy. -/
theorem pickFollowsItsModeAndStaysInRange : Obligations.PickFollowsItsModeAndStaysInRange :=
  fun c mag => ⟨pick_validated c.toConfig mag, pick_unvalidated c.toConfig mag, pick_lt c mag⟩

end Sys2Proof.Machine

/-! SUPPORT. A whole poll, state and frame: what it leaves when it confirms nothing and when it confirms a Symbol
(rules R180 to R185). -/

namespace Sys2Proof.Machine

section Poll

variable (raw : Option Nat) (s : State) (st : StabilizerState)

/-- A poll that confirms nothing writes StabilizerState and the response, and nothing else (rule R185). -/
theorem receive_frame_of_unconfirmed (h : stabStep s.cfg.toConfig s.stab raw = (st, none)) :
    receive raw s = { s with stab := st, response := (receive raw s).response } := by
  rw [receive_unconfirmed raw s (by rw [h]), h]
  rfl

/-- A poll that confirms `r` also writes what DIFF_DEC and FRAME_STEP write, and nothing else (rule R185). -/
theorem receive_frame_of_confirmed (r : Nat) (h : stabStep s.cfg.toConfig s.stab raw = (st, some r)) :
    receive raw s = { s with
      stab := st
      demod := (diffDec s.cfg.toConfig s.demod r).2
      frame := (frameStep s.cfg.toConfig s.frame (realNibble (diffDec s.cfg.toConfig s.demod r).1)).1
      response := (receive raw s).response } := by
  rw [receive_confirmed raw s r (by rw [h]), h]
  rfl

/-- What clauses 1, 2 and 4 share: the command's answer when STAB_STEP leaves `st` and confirms nothing. -/
theorem exec_rxPoll_of_unconfirmed (mag : List Nat) (hmag : snapshotOk s.cfg.toConfig mag = true)
    (hpick : pick s.cfg.toConfig mag = raw) (hstep : stabStep s.cfg.toConfig s.stab raw = (st, none)) :
    (stabStep s.cfg.toConfig s.stab raw).2 = none ∧
      ∃ t, exec (.rxPoll mag) s = .next t ∧ t = { s with stab := st, response := t.response } := by
  have hexec : exec (.rxPoll mag) s = .next (receive raw s) := hpick ▸ execRxPoll_next s mag hmag
  exact ⟨congrArg Prod.snd hstep, receive raw s, hexec, receive_frame_of_unconfirmed raw s st hstep⟩

end Poll

/-- Settles O40: the clause is `stabStep_ambiguous`, and the frame that of a poll that confirms nothing. -/
theorem ambiguousPollClearsTheCandidate : Obligations.AmbiguousPollClearsTheCandidate :=
  fun s mag hmag hpick =>
    exec_rxPoll_of_unconfirmed none s _ mag hmag hpick (stabStep_ambiguous s.cfg.toConfig s.stab)

/-- Settles O41: the clause is `stabStep_steady`, and the frame that of a poll that confirms nothing. -/
theorem steadyPollClearsTheCandidate : Obligations.SteadyPollClearsTheCandidate :=
  fun s mag r hmag hpick hactive =>
    exec_rxPoll_of_unconfirmed (some r) s _ mag hmag hpick (stabStep_steady s.cfg.toConfig s.stab r hactive)

/-- Settles O42: `stabStep_confirm` at the threshold and `stabStep_vote` below it, each with its poll's frame. -/
theorem repeatedCandidateVotesAndConfirms : Obligations.RepeatedCandidateVotesAndConfirms := by
  intro s mag r hmag hpick hactive hcand
  have hexec : exec (.rxPoll mag) s = .next (receive (some r) s) := hpick ▸ execRxPoll_next s mag hmag
  refine ⟨receive (some r) s, hexec, fun hvotes => ?_, fun hvotes => ?_⟩
  · have hstep := stabStep_confirm s.cfg.toConfig s.stab r hactive hcand hvotes
    have hstab : (receive (some r) s).stab = confirmSymbol r := by rw [receive_stab, hstep]
    refine ⟨congrArg Prod.snd hstep, hstab, ?_⟩
    rw [hstab]
    exact receive_frame_of_confirmed (some r) s _ r hstep
  · have hstep := stabStep_vote s.cfg.toConfig s.stab r hactive hcand hvotes
    exact ⟨congrArg Prod.snd hstep, receive_frame_of_unconfirmed (some r) s _ hstep⟩

/-- Settles O43: the clause is `stabStep_new`, and the frame that of a poll that confirms nothing. -/
theorem otherSymbolStartsANewCandidate : Obligations.OtherSymbolStartsANewCandidate :=
  fun s mag r hmag hpick hactive hcand =>
    exec_rxPoll_of_unconfirmed (some r) s _ mag hmag hpick (stabStep_new s.cfg.toConfig s.stab r hactive hcand)

/-- FRAME_STEP's input is `real mod 16` (rules R122, R185): the four bits keep just that. -/
theorem ofNat_mod_sixteen_eq_realNibble (real : Nat) : BitVec.ofNat 4 (real % 16) = realNibble real :=
  BitVec.eq_of_toNat_eq (by simp [realNibble])

/-- Settles O44: the two cases of `receive_cases` exclude each other by what STAB_STEP confirmed. -/
theorem confirmationRunsDecoderThenFraming : Obligations.ConfirmationRunsDecoderThenFraming := by
  intro s mag hmag
  refine ⟨receive (pick s.cfg.toConfig mag) s, execRxPoll_next s mag hmag, ?_⟩
  obtain ⟨r, hconf, hdemod, hframe⟩ | ⟨hconf, hkept⟩ := receive_cases (pick s.cfg.toConfig mag) s
  · refine ⟨fun r' hr' => ?_, fun hnone => absurd (hconf.symm.trans hnone) (Option.some_ne_none r)⟩
    obtain rfl : r = r' := Option.some.inj (hconf.symm.trans hr')
    rw [ofNat_mod_sixteen_eq_realNibble]
    exact ⟨hdemod, hframe⟩
  · exact ⟨fun r hr => absurd (hconf.symm.trans hr).symm (Option.some_ne_none r), fun _ => hkept⟩

end Sys2Proof.Machine

/-! SUPPORT. CHECKSUM under reordering (rule R205), the tag window (rule R201), the payload as indexed pairs (rule
R203), and what FRAME_STEP can do outside `WAIT_TAG` (rule R208). -/

namespace Sys2Proof.Machine

/-- XOR is commutative and associative, so the fold does not see the order (rule R205). -/
theorem checksum_eq_of_perm {p q : List Byte} (h : p.Perm q) : checksum p = checksum q :=
  h.foldl_eq 0#8

/-- Settles O55: the recursion is `checksum_cons`, two equal bytes cancel by it, and the order is
`checksum_eq_of_perm`. -/
theorem checksumIsTheXorInAnyOrder : Obligations.ChecksumIsTheXorInAnyOrder := by
  refine ⟨checksum_nil, checksum_cons, fun b => ?_, fun p q => checksum_eq_of_perm⟩
  calc checksum [b, b] = b ^^^ b ^^^ 0#8 := by rw [checksum_cons, checksum_cons, checksum_nil, BitVec.xor_assoc]
    _ = 0#8 := by rw [BitVec.xor_self, BitVec.xor_zero]

/-- The window in closed form: the nibble at the end, and the oldest one dropped above `2 * TAG_LEN` (rule R201). -/
theorem slideWindow_eq_drop (c : Config) (buf : List Nibble) (n : Nibble) :
    slideWindow c buf n =
      if 2 * c.tag.length < buf.length + 1 then (buf ++ [n]).drop 1 else buf ++ [n] := by
  rw [slideWindow, List.length_append, List.length_singleton, List.drop_one]
  rfl

/-- Settles O49: the window is `slideWindow`, and the two cases are the two outcomes of FRAME_TAG. -/
theorem tagWindowSlidesAndMatches : Obligations.TagWindowSlidesAndMatches := by
  intro c f n hmode tagn w
  have hw : slideWindow c.toConfig f.buf n = w := slideWindow_eq_drop c.toConfig f.buf n
  refine ⟨fun hmatch => frameStep_tag_match c.toConfig f n hmode (hw.trans hmatch), fun hne => ?_⟩
  rw [frameStep_tag_slide c.toConfig f n hmode (fun heq => hne (hw.symm.trans heq)), hw]

/-- Of `2 * l` nibbles, byte `j` is made of nibbles `2j` and `2j + 1` (rule R203). -/
theorem pairBytes_eq_range_map (l : Nat) (ns : List Nibble) (h : ns.length = 2 * l) :
    pairBytes ns = (List.range l).map fun j => joinNibbles (ns.getD (2 * j) 0) (ns.getD (2 * j + 1) 0) := by
  induction l generalizing ns with
  | zero =>
    obtain rfl := List.eq_nil_of_length_eq_zero h
    rfl
  | succ l ih =>
    match ns, h with
    | hi :: lo :: rest, h =>
      have hrest : rest.length = 2 * l := by simp at h; omega
      rw [pairBytes, ih rest hrest, List.range_succ_eq_map, List.map_cons, List.map_map]
      rfl

/-- Settles O51: the two cases are the two outcomes of FRAME_CONTENTS, and the payload is `pairBytes` read by index. -/
theorem contentsPairIntoThePayload : Obligations.ContentsPairIntoThePayload := by
  refine fun c f n hmode => ⟨frameStep_contents_more c.toConfig f n hmode, fun hlast => ?_⟩
  have hlength : (f.buf ++ [n]).length = 2 * f.len.toNat := by simpa using hlast
  rw [frameStep_contents_done c.toConfig f n hmode hlast, pairBytes_eq_range_map _ _ hlength]

theorem FrameMode.eq_of_ne_waitTag {mode : FrameMode} (h : mode ≠ .waitTag) :
    mode = .waitLength ∨ mode = .waitContents ∨ mode = .waitChecksum := by
  cases mode with
  | waitTag => exact absurd rfl h
  | waitLength | waitContents | waitChecksum => simp

/-- Only FRAME_TAG reads the configuration (rules R201, R208). -/
theorem frameStep_config_irrelevant (c c' : Config) (f : FrameState) (n : Nibble) (h : f.mode ≠ .waitTag) :
    frameStep c f n = frameStep c' f n := by
  obtain hmode | hmode | hmode := FrameMode.eq_of_ne_waitTag h <;> simp only [frameStep, hmode]

/-- In the two modes that collect one byte, a nibble that does not make the second of a pair is stored:
`hpair` rules the first branch of FRAME_LENGTH and of FRAME_CHECKSUM out. -/
theorem frameStep_byte_more (c : Config) (f : FrameState) (n : Nibble)
    (h : f.mode = .waitLength ∨ f.mode = .waitChecksum) (hl : f.buf.length ≠ 1) :
    frameStep c f n = ({ f with buf := f.buf ++ [n] }, .none) := by
  have hpair (hi lo : Nibble) : f.buf ++ [n] ≠ [hi, lo] := fun heq => hl (by simpa using congrArg List.length heq)
  obtain h | h := h
  · simp only [frameStep, h, frameLength]
  · simp only [frameStep, h, frameChecksum]

/-- Outside `WAIT_TAG` a nibble is stored, or completes the length or the contents, or completes the checksum and with
it the frame (rules R202 to R204). -/
theorem frameStep_cases_of_ne_waitTag (c : Config) (f : FrameState) (n : Nibble) (h : f.mode ≠ .waitTag) :
    frameStep c f n = ({ f with buf := f.buf ++ [n] }, .none) ∨
    ((frameStep c f n).1.buf = [] ∧
      ((frameStep c f n).1.mode = .waitContents ∨ (frameStep c f n).1.mode = .waitChecksum)) ∨
    (f.mode = .waitChecksum ∧ f.buf.length = 1 ∧ (frameStep c f n).1 = FrameState.waiting) := by
  obtain hmode | hmode | hmode := FrameMode.eq_of_ne_waitTag h
  · by_cases hl : f.buf.length = 1
    · obtain ⟨hi, hbuf⟩ := List.length_eq_one_iff.mp hl
      by_cases hz : joinNibbles hi n = 0#8
      · simp [frameStep_length_zero c f n hi hmode hbuf hz]
      · simp [frameStep_length_nonzero c f n hi hmode hbuf hz]
    · exact .inl (frameStep_byte_more c f n (.inl hmode) hl)
  · by_cases hl : f.buf.length + 1 = 2 * f.len.toNat
    · simp [frameStep_contents_done c f n hmode hl]
    · exact .inl (frameStep_contents_more c f n hmode hl)
  · by_cases hl : f.buf.length = 1
    · obtain ⟨hi, hbuf⟩ := List.length_eq_one_iff.mp hl
      exact .inr (.inr ⟨hmode, hl, by rw [frameStep_checksum_verdict c f n hi hmode hbuf]⟩)
    · exact .inl (frameStep_byte_more c f n (.inr hmode) hl)

/-- Settles O56: no configuration value is read, and each outcome of `frameStep_cases_of_ne_waitTag` keeps the mode,
goes on to a later field, or is the verdict. -/
theorem tagIsSearchedForOnlyInWaitTag : Obligations.TagIsSearchedForOnlyInWaitTag := by
  intro c tag f n hmode
  refine ⟨frameStep_config_irrelevant _ _ f n hmode, ?_⟩
  obtain hstore | ⟨hbuf, hnext⟩ | ⟨hsum, hlen, hwait⟩ := frameStep_cases_of_ne_waitTag c.toConfig f n hmode
  · rw [hstore]
    exact ⟨.inl rfl, id, fun htag => absurd htag hmode⟩
  · refine ⟨.inr hbuf, fun hlength => ?_, fun htag => ?_⟩
    · simp [hlength] at hnext
    · simp [htag] at hnext
  · rw [hwait]
    exact ⟨.inr rfl, fun hlength => absurd hlength (by decide), fun _ => ⟨hsum, hlen⟩⟩

end Sys2Proof.Machine

/-! SUPPORT. The decoder and the encoder are inverse (rules R79 to R81), and what a step does with each presented
command (rules R58, R230, R234). -/

namespace Sys2Proof

/-- TX_PLAY's operand units are read back as its length and its bytes (rule R79). -/
theorem decodePlay_encodeOperands (len : Byte) (data : List Byte) (h : data.length = len.toNat) :
    decodePlay (encodeOperands (.txPlay len data)) = .ok (.txPlay len data) := by
  have hlen : ¬ 256 ≤ len.toNat := not_le.mpr len.isLt
  have hbytes : (data.map BitVec.toNat).all (· < 256) = true := by
    simpa using fun b (_ : b ∈ data) => b.isLt
  rw [encodeOperands, decodePlay, if_neg hlen, if_neg (by simp [h]), if_pos hbytes]
  simp [Function.comp_def]

/-- A command whose word is none of the three defined ones, and whose row the word's bits give back. -/
theorem decode_encode_of_decodeReserved (c : Config) (i : Instr) (hword : 3 ≤ (encodeWord i).toNat)
    (hrow : decodeReserved (encodeWord i) = i) : decode c (encode i) = .ok i := by
  rw [encode, decode_reserved_word c _ _ hword, hrow]

theorem decode_encode (c : Config) (i : Instr) (h : i.wf c = true) : decode c (encode i) = .ok i := by
  cases i with
  | nop => exact decode_nop_word c []
  | rxPoll mag => exact (decode_poll_word c mag).trans ((decodePoll_eq_ok c mag _).mpr ⟨rfl, h⟩)
  | txPlay len data =>
    exact (decode_play_word c _).trans (decodePlay_encodeOperands len data ((Machine.payloadOk_iff len data).mp h))
  | reserved03 => exact decode_encode_of_decodeReserved c _ (by decide) (by decide)
  | reserved04 x | reserved08 x | reserved10 x | reserved20 x | reserved40 x | reserved80 x =>
    exact decode_encode_of_decodeReserved c _ (by clear h; revert x; decide) (by clear h; revert x; decide)

/-- Settles O2: each defined word has its own operand decoder, and the bits that a RESERVED row leaves open are the low
bits of its word. -/
theorem decodeOfEncodeIsTheCommand : Obligations.DecodeOfEncodeIsTheCommand :=
  fun c i h => decode_encode c.toConfig i h

theorem snapshotOk_iff (c : Config) (mag : List Nat) :
    snapshotOk c mag = true ↔ mag.length = c.numBins ∧ ∀ m ∈ mag, m < 2 ^ c.magW := by
  simp [snapshotOk]

theorem decodeNop_eq_ok (ops : List Nat) (i : Instr) (h : decodeNop ops = .ok i) : ops = [] ∧ i = .nop := by
  cases ops with
  | nil => exact ⟨rfl, (Except.ok.inj h).symm⟩
  | cons m ops => cases h

/-- Every presentation that decodes: NOP with no operand, a receivable poll, a receivable message, or any word above
`0x02` (rules R79 to R81). -/
theorem decode_ok_cases (c : Config) (p : Presentation) (i : Instr) (h : decode c p = .ok i) :
    (p = ⟨0x00, []⟩ ∧ i = .nop) ∨
    (∃ mag, p = ⟨0x01, mag⟩ ∧ i = .rxPoll mag ∧ snapshotOk c mag = true) ∨
    (∃ len data, p = ⟨0x02, len.toNat :: data.map BitVec.toNat⟩ ∧ i = .txPlay len data ∧ data.length = len.toNat) ∨
    (3 ≤ p.word.toNat ∧ i = decodeReserved p.word) := by
  obtain ⟨word, ops⟩ := p
  by_cases hword : word.toNat < 3
  · obtain rfl | rfl | rfl := defined_words word hword
    · rw [decode_nop_word] at h
      obtain ⟨rfl, rfl⟩ := decodeNop_eq_ok ops i h
      exact .inl ⟨rfl, rfl⟩
    · rw [decode_poll_word, decodePoll_eq_ok] at h
      exact .inr (.inl ⟨ops, rfl, h⟩)
    · rw [decode_play_word] at h
      obtain ⟨len, data, rfl, hlen, rfl⟩ := decodePlay_eq_ok ops i h
      exact .inr (.inr (.inl ⟨len, data, rfl, rfl, hlen⟩))
  · rw [decode_reserved_word c ops word (not_lt.mp hword)] at h
    exact .inr (.inr (.inr ⟨not_lt.mp hword, (Except.ok.inj h).symm⟩))

/-- Settles O3: the four cases of `decode_ok_cases`, in each of which the encoder writes the presentation back. -/
theorem decodedCommandsEncodeBack : Obligations.DecodedCommandsEncodeBack := by
  intro c p i h
  obtain ⟨rfl, rfl⟩ | ⟨mag, rfl, rfl, hmag⟩ | ⟨len, data, rfl, rfl, hlen⟩ | ⟨hword, rfl⟩ :=
    decode_ok_cases c.toConfig p i h
  · exact ⟨rfl, rfl, fun _ => rfl⟩
  · exact ⟨hmag, rfl, fun _ => rfl⟩
  · exact ⟨(Machine.payloadOk_iff len data).mpr hlen, rfl, fun _ => rfl⟩
  · exact ⟨decodeReserved_wf c.toConfig p.word, encodeWord_decodeReserved p.word hword,
      fun hlt => absurd hlt (not_lt.mpr hword)⟩

/-- Settles O1, by running the decoder on the table's words. -/
theorem commandWordsDecodeAsTheTableSays : Obligations.CommandWordsDecodeAsTheTableSays := by
  unfold Obligations.CommandWordsDecodeAsTheTableSays
  decide

end Sys2Proof

namespace Sys2Proof.Machine

/-- Every meaning that the decoder gives a reserved word is the one report of an illegal command (rule R234). -/
theorem exec_decodeReserved (w : Byte) (s : State) : exec (decodeReserved w) s = reportIllegal s := by
  unfold decodeReserved
  repeat' split
  all_goals rfl

theorem step_of_decode_eq_ok (s : State) (p : Presentation) (rest : List PortEvent) (i : Instr)
    (hport : s.port = .command p :: rest) (h : decode s.cfg.toConfig p = .ok i) :
    step s = exec i (s.withPort rest) := by
  rw [step_command s p rest hport, runPresented, State.withPort_cfg, h]

theorem step_of_decode_ne_ok (s : State) (p : Presentation) (rest : List PortEvent)
    (hport : s.port = .command p :: rest) (h : ∀ i, decode s.cfg.toConfig p ≠ .ok i) :
    ∃ e, step s = .refused (.malformedCommand e) := by
  rw [step_command s p rest hport, runPresented, State.withPort_cfg]
  cases hdec : decode s.cfg.toConfig p with
  | ok i => exact absurd hdec (h i)
  | error e => exact ⟨e, rfl⟩

/-- Settles O4: such a word decodes to a RESERVED row, and each row reports ILLEGAL. -/
theorem undefinedWordsReportIllegalAndChangeNothing : Obligations.UndefinedWordsReportIllegalAndChangeNothing := by
  intro s p rest hport hword
  rw [step_of_decode_eq_ok s p rest _ hport (decode_reserved_word s.cfg.toConfig p.operands p.word hword),
    exec_decodeReserved]
  rfl

/-- Settles O5. -/
theorem stepRunsTheDecodedCommand : Obligations.StepRunsTheDecodedCommand :=
  step_of_decode_eq_ok

/-- Settles O6: each defined word's operand decoder accepts only the operands it requires. -/
theorem malformedPresentationsAreRefused : Obligations.MalformedPresentationsAreRefused := by
  intro s p rest hport hbad
  refine step_of_decode_ne_ok s p rest hport fun i hdec => ?_
  obtain ⟨word, ops⟩ := p
  obtain ⟨rfl, hops⟩ | ⟨rfl, hops⟩ | ⟨rfl, hops⟩ := hbad
  · rw [decode_nop_word] at hdec
    exact hops (decodeNop_eq_ok ops i hdec).1
  · rw [decode_poll_word, decodePoll_eq_ok] at hdec
    exact hops ((snapshotOk_iff s.cfg.toConfig ops).mp hdec.2)
  · rw [decode_play_word] at hdec
    obtain ⟨len, data, -, hlen, hunits⟩ := decodePlay_eq_ok ops i hdec
    exact hops ⟨len, data, hlen, hunits⟩

/-- Settles O7. -/
theorem overlappedCommandsAreStuck : Obligations.OverlappedCommandsAreStuck :=
  step_overlap

/-- Settles O8. -/
theorem idleBlockHoldsItsState : Obligations.IdleBlockHoldsItsState :=
  step_idle

/-- Settles O9, by the table of each code. -/
theorem codesOfStatusEventAndMode : Obligations.CodesOfStatusEventAndMode := by
  refine ⟨⟨rfl, rfl, fun x => ?_⟩, ⟨rfl, rfl, rfl, fun e => ?_⟩, rfl, rfl, rfl, rfl⟩
  · cases x <;> decide
  · cases e <;> decide

/-- Settles O12: what `resetBlock` sets, on the state without the reset event. -/
theorem resetInputRestoresEveryElement : Obligations.ResetInputRestoresEveryElement :=
  step_reset

/-- Settles O26. -/
theorem nopRespondsOkAndWritesNoState : Obligations.NopRespondsOkAndWritesNoState :=
  fun _ => rfl

/-- Settles O27: each row's meaning is `reportIllegal`. -/
theorem reservedRowsRespondIllegalAndWriteNoState : Obligations.ReservedRowsRespondIllegalAndWriteNoState := by
  intro s x2 x3 x4 x5 x6 x7 i hi
  simp only [List.mem_cons, List.not_mem_nil, or_false] at hi
  obtain rfl | rfl | rfl | rfl | rfl | rfl | rfl := hi <;> rfl

/-- Settles O15: an idle step, a reset and every command keep the configuration. -/
theorem noStepChangesTheConfiguration : Obligations.NoStepChangesTheConfiguration := by
  intro s t hstep
  obtain ⟨-, rfl⟩ | ⟨rest, -, rfl⟩ | ⟨p, rest, i, -, -, hexec⟩ := step_next_cases s t hstep
  · rfl
  · rfl
  · obtain ⟨status, rfl⟩ | ⟨mag, -, -, rfl⟩ | ⟨len, data, -, -, rfl⟩ := exec_next_cases i _ t hexec
    · rfl
    · simp
    · rfl

end Sys2Proof.Machine

/-! SUPPORT. The invariants of the state elements (rules R21, R188, R189, R210): each component's step keeps its own,
and so does every step of the machine. -/

namespace Sys2Proof.Machine

/-- What STAB_STEP confirms is what it read, and the new active Symbol; otherwise the active Symbol is kept
(rules R181 to R184). -/
theorem stabStep_confirms_cases (c : Config) (st : StabilizerState) (raw : Option Nat) :
    (∃ r, raw = some r ∧ stabStep c st raw = (confirmSymbol r, some r)) ∨
    ((stabStep c st raw).2 = none ∧ (stabStep c st raw).1.active = st.active) := by
  obtain h | ⟨r, rfl, -, -, -, h⟩ | ⟨r, -, -, -, -, h⟩ | ⟨r, -, -, -, h⟩ := stabStep_cases c st raw
  · exact .inr (by simp [h, StabilizerState.clearCandidate])
  · exact .inl ⟨r, rfl, h⟩
  · exact .inr (by simp [h])
  · exact .inr (by simp [h])

theorem stabStep_inv (c : LegalConfig) (st : StabilizerState) (raw : Option Nat) (h : st.Inv c.toConfig)
    (hraw : ∀ r, raw = some r → r < c.pv) : (stabStep c.toConfig st raw).1.Inv c.toConfig := by
  obtain ⟨hvotes, hcand, hne, hcandLt, hactiveLt⟩ := h
  have hthreshold := c.threshold_ge
  obtain hstep | ⟨r, rfl, -, -, -, hstep⟩ | ⟨r, rfl, -, hr, hmore, hstep⟩ | ⟨r, rfl, hactive, -, hstep⟩ :=
    stabStep_cases c.toConfig st raw <;> rw [hstep]
  · exact ⟨Nat.zero_le _, by simp [StabilizerState.clearCandidate], by simp [StabilizerState.clearCandidate],
      by simp [StabilizerState.clearCandidate], hactiveLt⟩
  · exact ⟨Nat.zero_le _, by simp [confirmSymbol], by simp [confirmSymbol], by simp [confirmSymbol],
      by simpa [confirmSymbol] using hraw r rfl⟩
  · exact ⟨by dsimp only; omega, by simp [hr], hne, hcandLt, hactiveLt⟩
  · exact ⟨by dsimp only; omega, by simp, by simpa using hactive, by simpa using hraw r rfl, hactiveLt⟩

theorem diffDec_inv (c : Config) (d : DemodulatorState) (r : Nat) (h : r < c.pv) :
    (diffDec c d r).2.Inv c (confirmSymbol r) :=
  ⟨.inr rfl, h⟩

/-- The two buffers that a mode collecting one byte can hold. -/
theorem eq_nil_or_singleton_of_length_le_one {buf : List Nibble} (h : buf.length ≤ 1) :
    buf = [] ∨ ∃ hi, buf = [hi] :=
  (Nat.le_one_iff_eq_zero_or_eq_one.mp h).imp List.eq_nil_of_length_eq_zero List.length_eq_one_iff.mp

theorem frameStep_inv (c : Config) (f : FrameState) (n : Nibble) (h : f.Inv c) : (frameStep c f n).1.Inv c := by
  obtain ⟨htag, hlength, hcontents, hchecksum⟩ := h
  cases hmode : f.mode with
  | waitTag =>
    obtain ⟨hbuf, hlen, hpayload⟩ := htag hmode
    by_cases hw : slideWindow c f.buf n = tagNibbles c
    · simp [frameStep_tag_match c f n hmode hw, FrameState.Inv, hlen, hpayload]
    · simp [frameStep_tag_slide c f n hmode hw, FrameState.Inv, hmode, hlen, hpayload, hbuf]
  | waitLength =>
    obtain ⟨hbuf, hlen, hpayload⟩ := hlength hmode
    obtain hnil | ⟨hi, hone⟩ := eq_nil_or_singleton_of_length_le_one hbuf
    · simp [frameStep_length_first c f n hmode hnil, FrameState.Inv, hmode, hlen, hpayload]
    · by_cases hz : joinNibbles hi n = 0#8
      · simp [frameStep_length_zero c f n hi hmode hone hz, FrameState.Inv]
      · have hpos : 1 ≤ (joinNibbles hi n).toNat :=
          Nat.one_le_iff_ne_zero.mpr fun h0 => hz (BitVec.eq_of_toNat_eq h0)
        simp [frameStep_length_nonzero c f n hi hmode hone hz, FrameState.Inv, hpayload, hpos]
  | waitContents =>
    obtain ⟨hpos, hbuf, hpayload⟩ := hcontents hmode
    by_cases hl : f.buf.length + 1 = 2 * f.len.toNat
    · have hpair : (pairBytes (f.buf ++ [n])).length = f.len.toNat := by simp [pairBytes_length, hl]
      simp [frameStep_contents_done c f n hmode hl, FrameState.Inv, hpair]
    · have hmore : f.buf.length + 1 ≤ 2 * f.len.toNat - 1 := by omega
      simp [frameStep_contents_more c f n hmode hl, FrameState.Inv, hmode, hpos, hmore, hpayload]
  | waitChecksum =>
    obtain ⟨hbuf, hpayload⟩ := hchecksum hmode
    obtain hnil | ⟨hi, hone⟩ := eq_nil_or_singleton_of_length_le_one hbuf
    · simp [frameStep_checksum_first c f n hmode hnil, FrameState.Inv, hmode, hpayload]
    · simp [frameStep_checksum_verdict c f n hi hmode hone, FrameState.Inv, FrameState.waiting]

theorem playMessage_inv (c : LegalConfig) (len : Byte) (data : List Byte) (h : data.length = len.toNat) :
    (playMessage c.toConfig len data).2.Inv c.toConfig := by
  refine ⟨scheduleMarks_txLast_lt c ⟨0, 0⟩ _ (Nat.zero_lt_of_lt c.pv_ge), ?_⟩
  have hslot : (playMessage c.toConfig len data).2.txSlot = c.marks len.toNat := by
    simp [playMessage, messageStream_length c.toConfig len data h]
  have htag := c.tagLen_le
  have hlen := len.isLt
  rw [hslot]
  simp only [Config.marks, Config.marksMax]
  omega

theorem receive_inv (mag : List Nat) (s : State) (h : s.Inv) : (receive (pick s.cfg.toConfig mag) s).Inv := by
  obtain ⟨hmod, hstab, hdemod, hframe⟩ := h
  have hpick := pick_lt s.cfg mag
  have hstab' := stabStep_inv s.cfg s.stab _ hstab hpick
  refine ⟨by simpa using hmod, by simpa using hstab', ?_⟩
  rw [receive_cfg, receive_stab]
  obtain ⟨r, hr, hstep⟩ | ⟨hnone, hactive⟩ :=
    stabStep_confirms_cases s.cfg.toConfig s.stab (pick s.cfg.toConfig mag)
  · have hconfirmed := receive_frame_of_confirmed _ s _ r hstep
    rw [hconfirmed, hstep]
    exact ⟨diffDec_inv s.cfg.toConfig s.demod r (hpick r hr), frameStep_inv s.cfg.toConfig s.frame _ hframe⟩
  · rw [receive_frame_of_unconfirmed _ s _ (Prod.ext rfl hnone)]
    exact ⟨by simpa only [DemodulatorState.Inv, hactive] using hdemod, hframe⟩

/-- The invariants hold at reset (rules R188, R189, R210, R280). -/
theorem built_inv (c : LegalConfig) : (State.built c).Inv := by
  have hpv := Nat.zero_lt_of_lt c.pv_ge
  simp [State.Inv, ModulatorState.Inv, StabilizerState.Inv, DemodulatorState.Inv, FrameState.Inv, hpv]

theorem exec_inv (i : Instr) (s t : State) (h : s.Inv) (hexec : exec i s = .next t) : t.Inv := by
  obtain ⟨status, rfl⟩ | ⟨mag, -, -, rfl⟩ | ⟨len, data, -, hlen, rfl⟩ := exec_next_cases i s t hexec
  · exact h
  · exact receive_inv mag s h
  · obtain ⟨-, hreceive⟩ := h
    exact ⟨playMessage_inv s.cfg len data hlen, hreceive⟩

/-- Settles O57: taking an event from the port, an idle step and a response touch no state element, a reset gives the
reset values, and each command's component steps keep their invariants. -/
theorem everyStepKeepsTheInvariants : Obligations.EveryStepKeepsTheInvariants := by
  intro s t h hstep
  obtain ⟨-, rfl⟩ | ⟨rest, -, rfl⟩ | ⟨p, rest, i, -, -, hexec⟩ := step_next_cases s t hstep
  · exact h
  · exact built_inv s.cfg
  · exact exec_inv i (s.withPort rest) t h hexec

/-- Settles O13. -/
theorem theInvariantsHoldAtReset : Obligations.TheInvariantsHoldAtReset :=
  ⟨built_inv, built_inv LegalConfig.reference⟩

theorem FrameState.Inv.payload_length_lt {c : Config} {f : FrameState} (h : f.Inv c) : f.payload.length < 2 ^ 8 := by
  obtain ⟨htag, hlength, hcontents, hchecksum⟩ := h
  cases hmode : f.mode with
  | waitTag => simp [(htag hmode).2.2]
  | waitLength => simp [(hlength hmode).2.2]
  | waitContents => simp [(hcontents hmode).2.2]
  | waitChecksum => exact (hchecksum hmode).2 ▸ f.len.isLt

/-- Settles O16: each range of the invariants is at most two to the power of its width (rules R8, R22 to R27). -/
theorem declaredWidthsHoldEveryValue : Obligations.DeclaredWidthsHoldEveryValue := by
  rintro s ⟨⟨htxLast, htxSlot⟩, ⟨hvotes, -, -, hcand, hactive⟩, ⟨-, hrxLast⟩, hframe⟩
  have hsymbol {x : Nat} (h : x < s.cfg.pv) : x < 2 ^ s.cfg.sw := h.trans_le (Config.le_two_pow_ceilLog2 _)
  have hthreshold := s.cfg.threshold_ge
  refine ⟨hsymbol htxLast, ?_, hsymbol hrxLast, fun x hx => hsymbol (hactive x hx), fun x hx => hsymbol (hcand x hx),
    ?_, hframe.payload_length_lt⟩
  · exact (Nat.lt_succ_of_le htxSlot).trans_le (Config.le_two_pow_ceilLog2 _)
  · have hcount : s.stab.votes + 1 < s.cfg.cycleThreshold + 1 := by omega
    exact hcount.trans_le (Config.le_two_pow_ceilLog2 _)

end Sys2Proof.Machine

/-! SUPPORT. Construction (rules R255, R282): each check written out, and what a positive real `MARK_SECONDS` is. -/

namespace Sys2Proof

variable (c : Config)

theorem Config.alphabetOk_iff : c.alphabetOk = true ↔ 1 ≤ c.alphabet.length ∧ ∀ set ∈ c.alphabet, 1 ≤ set.length := by
  simp only [Config.alphabetOk, Config.sizes, Bool.and_eq_true, List.all_map, List.all_eq_true, Function.comp_apply,
    decide_eq_true_eq]
  rfl

theorem Config.valuesOk_iff : c.valuesOk = true ↔ 17 ≤ (c.alphabet.map List.length).prod :=
  decide_eq_true_iff

theorem Config.frequenciesOk_iff :
    c.frequenciesOk = true ↔
      ∀ set ∈ c.alphabet, (set.Pairwise fun t u => t.freq ≠ u.freq) ∧ ∀ t ∈ set, 0 < t.freq := by
  simp [Config.frequenciesOk, List.Nodup, List.pairwise_map]

theorem Config.binsOk_iff :
    c.binsOk = true ↔ c.alphabet.length ≤ c.numBins ∧
      ∀ set ∈ c.alphabet, (set.Pairwise fun t u => t.bin ≠ u.bin) ∧ ∀ t ∈ set, t.bin < c.numBins := by
  simp only [Config.binsOk, Bool.and_eq_true, List.all_eq_true, decide_eq_true_eq, List.Nodup, List.pairwise_map]
  rfl

theorem Config.thresholdOk_iff :
    c.thresholdOk = true ↔ 2 ≤ c.cycleThreshold ∧ c.cycleThreshold < c.cyclesPerMark := by
  simp [Config.thresholdOk]

theorem Config.tagOk_iff : c.tagOk = true ↔ 1 ≤ c.tag.length ∧ c.tag.length ≤ c.tagLenMax := by
  simp only [Config.tagOk, Bool.and_eq_true, decide_eq_true_eq]
  rfl

/-- The count alone decides, so a unit of any one length (of 1 here) shows whether a duration is positive. -/
theorem Seconds.count_pos_iff (s : Seconds) : 0 < s.count ↔ ∀ build : ℝ, 0 < build → 0 < s.value build :=
  ⟨fun h build hbuild => (s.value_pos_iff build hbuild).mpr h, fun h => (s.value_pos_iff 1 one_pos).mp (h 1 one_pos)⟩

theorem Config.markOk_iff :
    c.markOk = true ↔ (∀ build : ℝ, 0 < build → 0 < c.markSeconds.value build) ∧ 1 ≤ c.magW := by
  simp [Config.markOk, Seconds.count_pos_iff]

theorem Config.build_eq_ok_iff : (∃ l : LegalConfig, c.build = .ok l ∧ l.toConfig = c) ↔ c.firstError = none := by
  constructor
  · rintro ⟨l, -, rfl⟩
    exact l.legal
  · intro h
    refine ⟨⟨c, h⟩, ?_, rfl⟩
    unfold Config.build
    split
    · rfl
    · next e he => exact absurd (h.symm.trans he) (Option.some_ne_none e).symm

/-- Settles O14: construction succeeds where no check fails, and each check is written out by its own lemma. -/
theorem constructionAcceptsExactlyLegalConfigurations : Obligations.ConstructionAcceptsExactlyLegalConfigurations := by
  intro c
  rw [c.build_eq_ok_iff, c.firstError_eq_none, c.alphabetOk_iff, c.valuesOk_iff, c.frequenciesOk_iff, c.binsOk_iff,
    c.thresholdOk_iff, c.tagOk_iff, c.markOk_iff]

/-- Only the last check reads `MARK_SECONDS`, and only its count. -/
theorem LegalConfig.firstError_withMarkSeconds (c : LegalConfig) (m : Seconds) (h : 0 < m.count) :
    ({ c.toConfig with markSeconds := m } : Config).firstError = none := by
  obtain ⟨halphabet, hvalues, hfreqs, hbins, hthreshold, htag, hmark⟩ := c.checks_hold
  have hmag := ((c.markOk_iff).mp hmark).2
  exact (Config.firstError_eq_none _).mpr
    ⟨halphabet, hvalues, hfreqs, hbins, hthreshold, htag, by simp [Config.markOk, h, hmag]⟩

/-- Settles O59: a build whose own unit of time is that number of seconds, and a Mark of one unit. -/
theorem markSecondsMayBeAnyPositiveReal : Obligations.MarkSecondsMayBeAnyPositiveReal := by
  intro c seconds hpos
  refine ⟨seconds, ⟨_, c.firstError_withMarkSeconds ⟨1, .build⟩ one_pos⟩, hpos, ?_, rfl⟩
  simp [Seconds.value, TimeUnit.value]

end Sys2Proof

/-! SUPPORT. The bits of an option Symbol (rule R86), the codec's round trips (rules R102 to R105), and the differential
laws (rules R122 to R125). -/

namespace Sys2Proof.Machine

theorem optionSymbolBits_none_toNat (c : Config) : (optionSymbolBits c none).toNat = 0 := by
  simp [optionSymbolBits]

/-- The valid bit stands above the `SW` value bits (rule R86). -/
theorem optionSymbolBits_some_toNat (c : Config) (x : Nat) (h : x < 2 ^ c.sw) :
    (optionSymbolBits c (some x)).toNat = 2 ^ c.sw + x := by
  have hvalue : (BitVec.ofNat c.sw x).toNat = x := (BitVec.toNat_ofNat x c.sw).trans (Nat.mod_eq_of_lt h)
  rw [optionSymbolBits, BitVec.toNat_append, hvalue, ← Nat.shiftLeft_add_eq_or_of_lt h]
  simp [Nat.shiftLeft_eq]

/-- Settles O10: the valid bit tells `none` from a Symbol, and the value bits tell Symbols apart. -/
theorem optionSymbolBitsSeparateEveryValue : Obligations.OptionSymbolBitsSeparateEveryValue := by
  intro c a b ha hb
  have hsome (x : Nat) (h : x < c.pv) :=
    optionSymbolBits_some_toNat c.toConfig x (h.trans_le (Config.le_two_pow_ceilLog2 c.pv))
  have hpow := Nat.two_pow_pos c.sw
  refine ⟨fun h => ?_, BitVec.eq_of_toNat_eq (optionSymbolBits_none_toNat c.toConfig), fun x hx => ?_⟩
  · have hbits := congrArg BitVec.toNat h
    cases a with
    | none =>
      cases b with
      | none => rfl
      | some y => rw [optionSymbolBits_none_toNat, hsome y (hb y rfl)] at hbits; omega
    | some x =>
      cases b with
      | none => rw [optionSymbolBits_none_toNat, hsome x (ha x rfl)] at hbits; omega
      | some y => rw [hsome x (ha x rfl), hsome y (hb y rfl)] at hbits; simpa using hbits
  · obtain rfl : a = some x := hx
    exact hsome x (ha x rfl)

/-- CODEC_DEC accepts exactly one in-range digit per set (rules R102, R103). -/
theorem codecDec_eq_ok_iff (c : Config) (d : List Nat) (s : Nat) :
    codecDec c d = .ok s ↔ List.Forall₂ (· < ·) d c.sizes ∧ weighSizes c.sizes d = s := by
  rw [forall₂_digits, ← digitsInRange_iff]
  by_cases hl : d.length = c.n <;> by_cases hr : digitsInRange c d = true <;>
    simp [codecDec, hl, hr, weighDigits_eq_weighSizes]

/-- Settles O18: the accepted case by `codecDec_eq_ok_iff`, and each refusal by its check. -/
theorem codecDecSumsInRangeDigitsAndRefusesOthers : Obligations.CodecDecSumsInRangeDigitsAndRefusesOthers := by
  intro c d
  refine ⟨fun hl hr => ?_, fun hl ⟨k, hk, hge⟩ => ?_, fun hl => if_pos hl⟩
  · have hdigits := (forall₂_digits c.toConfig d).mpr ⟨hl, hr⟩
    refine ⟨weighDigits c.toConfig d, ?_, weighDigits_lt c.toConfig d hdigits, rfl⟩
    exact (codecDec_eq_ok_iff c.toConfig d _).mpr ⟨hdigits, (weighDigits_eq_weighSizes c.toConfig d hl).symm⟩
  · have hrange : ¬ digitsInRange c.toConfig d = true := fun h =>
      absurd ((digitsInRange_iff c.toConfig d).mp h k hk) (not_lt.mpr hge)
    rw [codecDec, if_neg (not_not.mpr hl), if_neg hrange]

/-- The digits of CODEC_ENC's loop are in range and weigh what the sets can hold of `x` (rules R101, R104). -/
theorem encodeSets_digits (sets : List FrequencySet) (x : Nat) (hpos : ∀ set ∈ sets, 1 ≤ set.length) :
    List.Forall₂ (· < ·) ((encodeSets sets x).map Prod.snd) (sets.map List.length) ∧
    weighSizes (sets.map List.length) ((encodeSets sets x).map Prod.snd) = x % (sets.map List.length).prod := by
  induction sets generalizing x with
  | nil => simp [encodeSets, weighSizes, Nat.mod_one]
  | cons set rest ih =>
    obtain ⟨hset, hrest⟩ := List.forall_mem_cons.mp hpos
    obtain ⟨hdigits, hweigh⟩ := ih (x / set.length) hrest
    refine ⟨.cons (Nat.mod_lt x hset) hdigits, ?_⟩
    simp only [encodeSets, List.map_cons, List.prod_cons, weighSizes, hweigh, Nat.mod_mul]

/-- In-range digits are the digits of their own weight (rule R105). -/
theorem encodeSets_weighSizes (sets : List FrequencySet) (d : List Nat)
    (h : List.Forall₂ (· < ·) d (sets.map List.length)) :
    (encodeSets sets (weighSizes (sets.map List.length) d)).map Prod.snd = d := by
  induction sets generalizing d with
  | nil => simpa [encodeSets] using h
  | cons set rest ih =>
    cases h with
    | @cons x size ds sizes hx hrest =>
      have hdigit : (x + set.length * weighSizes (rest.map List.length) ds) % set.length = x := by
        rw [Nat.add_mul_mod_self_left, Nat.mod_eq_of_lt hx]
      have hleft : (x + set.length * weighSizes (rest.map List.length) ds) / set.length =
          weighSizes (rest.map List.length) ds := by
        rw [Nat.add_mul_div_left _ _ (Nat.zero_lt_of_lt hx), Nat.div_eq_of_lt hx, Nat.zero_add]
      simp only [encodeSets, List.map_cons, weighSizes, hdigit, hleft, ih ds hrest]

/-- Rule R104. -/
theorem codecDec_codecEnc (c : LegalConfig) (s : Nat) (h : s < c.pv) :
    codecDec c.toConfig ((codecEnc c.toConfig s).map Prod.snd) = .ok s := by
  obtain ⟨hdigits, hweigh⟩ := encodeSets_digits c.alphabet s c.set_length_pos
  exact (codecDec_eq_ok_iff c.toConfig _ s).mpr ⟨hdigits, hweigh.trans (Nat.mod_eq_of_lt h)⟩

/-- Settles O19: the two round trips of the mixed-radix digits, each by induction on the sets. -/
theorem codecIsABijection : Obligations.CodecIsABijection := by
  refine fun c => ⟨codecDec_codecEnc c, fun d s hdec => ?_⟩
  obtain ⟨hdigits, rfl⟩ := (codecDec_eq_ok_iff c.toConfig d s).mp hdec
  exact ⟨weighSizes_lt c.sizes d hdigits, encodeSets_weighSizes c.alphabet d hdigits⟩

/-- Within a set the frequencies are distinct, so equal tones come of equal digits (rule R105). -/
theorem encodeSets_digits_eq_of_tones_eq (sets : List FrequencySet) (x y : Nat)
    (hpos : ∀ set ∈ sets, 1 ≤ set.length) (hnodup : ∀ set ∈ sets, (set.map Tone.freq).Nodup)
    (h : (encodeSets sets x).map Prod.fst = (encodeSets sets y).map Prod.fst) :
    (encodeSets sets x).map Prod.snd = (encodeSets sets y).map Prod.snd := by
  induction sets generalizing x y with
  | nil => rfl
  | cons set rest ih =>
    obtain ⟨hset, hrest⟩ := List.forall_mem_cons.mp hpos
    obtain ⟨hfreqs, hfreqsRest⟩ := List.forall_mem_cons.mp hnodup
    simp only [encodeSets, List.map_cons, List.cons.injEq] at h ⊢
    obtain ⟨htone, htones⟩ := h
    have hlt (z : Nat) : z % set.length < (set.map Tone.freq).length := by simpa using Nat.mod_lt z hset
    rw [toneFreq, toneFreq, List.getD_eq_getElem _ _ (hlt x), List.getD_eq_getElem _ _ (hlt y),
      hfreqs.getElem_inj_iff] at htone
    exact ⟨htone, ih _ _ hrest hfreqsRest htones⟩

/-- Settles O20: if no tone differed the digits would not either, and CODEC_DEC would give one Symbol for both. -/
theorem differentSymbolsSoundDifferentTones : Obligations.DifferentSymbolsSoundDifferentTones := by
  intro c s r hs hr hne
  by_contra! hsame
  have htones : (codecEnc c.toConfig s).map Prod.fst = (codecEnc c.toConfig r).map Prod.fst := by
    refine List.ext_getElem? fun k => ?_
    by_cases hk : k < c.n
    · exact hsame k hk
    · rw [List.getElem?_eq_none (by simpa using hk), List.getElem?_eq_none (by simpa using hk)]
  have hdigits := encodeSets_digits_eq_of_tones_eq c.alphabet s r c.set_length_pos c.freqs_nodup htones
  have hdec : Except.ok (ε := Refusal) s = .ok r := by
    rw [← codecDec_codecEnc c s hs, ← codecDec_codecEnc c r hr, codecEnc, codecEnc, hdigits]
  exact hne (Except.ok.inj hdec)

/-- Settles O23: in either case of `diffDecReal_cases` the realValue is already below `PV`. -/
theorem realValueClosedFormAndNibble : Obligations.RealValueClosedFormAndNibble := by
  intro c rxLast value hlast hvalue
  have hcases := diffDecReal_cases c rxLast value hlast
  have hlt : diffDecReal c.toConfig rxLast value < c.pv := by omega
  refine ⟨?_, hlt, by simp [realNibble], by omega⟩
  obtain ⟨hgt, hreal⟩ | ⟨hle, hreal⟩ := hcases
  · have hsum : value + c.pv - rxLast - 1 = diffDecReal c.toConfig rxLast value + c.pv := by omega
    rw [hsum, Nat.add_mod_right, Nat.mod_eq_of_lt hlt]
  · have hsum : value + c.pv - rxLast - 1 = diffDecReal c.toConfig rxLast value := by omega
    rw [hsum, Nat.mod_eq_of_lt hlt]

/-- The sum grows by at least 1 and at most 16, which is less than `PV` (rule R124, decision D12). -/
theorem diffEncSymbol_ne (c : LegalConfig) (last : Nat) (v : Nibble) (h : last < c.pv) :
    diffEncSymbol c.toConfig last v ≠ last := by
  have hnibble := v.isLt
  have hpv := c.pv_ge
  have hcases := diffEncSymbol_cases c last v h
  omega

/-- Settles O24. -/
theorem diffEncNeverRepeatsASymbol : Obligations.DiffEncNeverRepeatsASymbol :=
  fun c m v h => ⟨diffEncSymbol_ne c m.txLast v h, diffEncSymbol_lt c m.txLast v⟩

/-- Settles O25: `decodeAll_symbolsOf_scheduleMarks`, by induction on the nibbles. -/
theorem differentialRoundTripRecoversTheNibbles : Obligations.DifferentialRoundTripRecoversTheNibbles :=
  decodeAll_symbolsOf_scheduleMarks

end Sys2Proof.Machine

/-! SUPPORT. The schedule of a message (rules R84, R140 to R145): each record in closed form, its last Symbol, and how
neighbouring Symbols differ. -/

namespace Sys2Proof.Machine

/-- CODEC_ENC's digits in terms of rule R100's multipliers (rules R71, R101). -/
theorem codecEnc_digits (c : Config) (s : Nat) :
    (codecEnc c s).map Prod.snd = (List.range c.n).map fun k => s / c.mult k % c.sizes.getD k 0 := by
  have hsize (k : Nat) : (c.alphabet.getD k []).length = c.sizes.getD k 0 :=
    (List.getD_map c.alphabet [] List.length).symm
  rw [codecEnc, encodeSets_eq_range_map, List.map_map]
  simp only [Function.comp_def, hsize, List.map_take]
  rfl

/-- CODEC_ENC's tones are those of its digits (rule R101). -/
theorem codecEnc_tones (c : Config) (s : Nat) :
    (codecEnc c s).map Prod.fst =
      ((codecEnc c s).map Prod.snd).zipIdx.map fun dk => toneFreq (c.alphabet.getD dk.2 []) dk.1 := by
  rw [codecEnc, encodeSets_eq_range_map]
  exact List.ext_getElem (by simp) (by simp)

/-- Record `i` of a schedule: slot and nibble counted from the start, and the Symbol after `i + 1` additions of
`nibble + 1` (rules R120, R140). -/
theorem scheduleMarks_getElem? (c : Config) (m : ModulatorState) (ns : List Nibble) (i : Nat) (r : ScheduleRecord)
    (h : (scheduleMarks c m ns).1[i]? = some r) :
    ∃ n, ns[i]? = some n ∧ r = scheduleRecord c (m.txSlot + i) n
      ((m.txLast + ((ns.take (i + 1)).map fun n => n.toNat + 1).sum) % c.pv) := by
  induction ns generalizing m i with
  | nil => simp at h
  | cons n ns ih =>
    rw [scheduleMarks_cons] at h
    cases i with
    | zero =>
      obtain rfl := Option.some.inj h
      exact ⟨n, rfl, by simp [diffEncSymbol, Nat.add_assoc]⟩
    | succ i =>
      obtain ⟨n', hn', rfl⟩ := ih _ i h
      refine ⟨n', hn', ?_⟩
      simp only [diffEncSymbol, Nat.mod_add_mod, List.take_succ_cons, List.map_cons, List.sum_cons, Nat.add_assoc,
        Nat.add_comm 1 i]

/-- Settles O32: one record per nibble by `scheduleMarks_getElem?`, its digits and tones by the codec's closed form. -/
theorem txPlayReturnsTheWholeSchedule : Obligations.TxPlayReturnsTheWholeSchedule := by
  intro s len data hlen c st sym
  refine ⟨_, _, execTxPlay_next len data s hlen, rfl, ?_, fun i r hr => ?_⟩
  · rw [playMessage, scheduleMarks_length, messageStream_length c len data hlen]
  · obtain ⟨n, hn, rfl⟩ := scheduleMarks_getElem? c ⟨0, 0⟩ st i r hr
    refine ⟨Nat.zero_add i, hn, by simp [scheduleRecord, sym], ?_, codecEnc_tones c _, fun build => ⟨?_, ?_⟩⟩
    · simp [scheduleRecord, codecEnc_digits, sym]
    · simp [scheduleRecord, markTime_value, c]
    · simp [scheduleRecord, markTime_value, c]

/-- `tx_last` after a schedule is the Symbol of its last Mark (rule R145). -/
theorem symbolsOf_scheduleMarks_getLast? (c : Config) (m : ModulatorState) (n : Nibble) (ns : List Nibble) :
    (symbolsOf (scheduleMarks c m (n :: ns)).1).getLast? = some (scheduleMarks c m (n :: ns)).2.txLast := by
  induction ns generalizing m n with
  | nil => rfl
  | cons n' ns ih =>
    rw [symbolsOf_scheduleMarks_cons, symbolsOf_scheduleMarks_cons, List.getLast?_cons_cons,
      ← symbolsOf_scheduleMarks_cons, ih]
    rfl

/-- Settles O33: `tx_slot` counts the nibbles, and TX_PLAY writes ModulatorState and the response alone. -/
theorem txPlayLeavesLastSymbolAndMarkCount : Obligations.TxPlayLeavesLastSymbolAndMarkCount := by
  intro s len data hlen
  refine ⟨_, _, execTxPlay_next len data s hlen, rfl, symbolsOf_scheduleMarks_getLast? _ _ _ _, ?_, rfl⟩
  simp [playMessage, messageStream_length s.cfg.toConfig len data hlen]

/-- No Symbol of a schedule is the one before it, nor the first one `tx_last` (rules R124, R143). -/
theorem symbolsOf_scheduleMarks_isChain (c : LegalConfig) (m : ModulatorState) (ns : List Nibble)
    (h : m.txLast < c.pv) : (m.txLast :: symbolsOf (scheduleMarks c.toConfig m ns).1).IsChain (· ≠ ·) := by
  induction ns generalizing m with
  | nil => exact .singleton _
  | cons n ns ih =>
    rw [symbolsOf_scheduleMarks_cons, List.isChain_cons_cons]
    exact ⟨(diffEncSymbol_ne c m.txLast n h).symm, ih ⟨_, m.txSlot + 1⟩ (diffEncSymbol_lt c m.txLast n)⟩

/-- Settles O34. -/
theorem consecutiveSymbolsOfAScheduleDiffer : Obligations.ConsecutiveSymbolsOfAScheduleDiffer :=
  fun c len data =>
    (symbolsOf_scheduleMarks_isChain c ⟨0, 0⟩ (messageStream c.toConfig len data) (Nat.zero_lt_of_lt c.pv_ge)).tail

/-- The resync nibble 0 makes Symbol 1 from `tx_last = 0` (rule R144). -/
theorem symbolsOf_playMessage (c : LegalConfig) (len : Byte) (data : List Byte) :
    symbolsOf (playMessage c.toConfig len data).1 =
      1 :: symbolsOf (scheduleMarks c.toConfig ⟨1, 1⟩ (bytesNibbles (messageBytes c.toConfig len data))).1 := by
  have hone : diffEncSymbol c.toConfig 0 0#4 = 1 := Nat.mod_eq_of_lt (by have := c.pv_ge; omega)
  rw [playMessage, messageStream_eq_messageBytes, symbolsOf_scheduleMarks_cons, hone]

/-- Settles O35: after the resync nibble comes the first nibble of the tag, which is not empty. -/
theorem firstSymbolsOfEveryMessage : Obligations.FirstSymbolsOfEveryMessage := by
  intro c len data
  obtain ⟨b, tag, htag⟩ := List.exists_cons_of_length_pos c.tagLen_pos
  have hsecond : diffEncSymbol c.toConfig 1 (highNibble b) = (2 + (highNibble b).toNat) % c.pv := by
    rw [diffEncSymbol, Nat.add_right_comm]
  refine ⟨highNibble b, ?_⟩
  rw [symbolsOf_playMessage, messageBytes, tagNibbles, htag, List.cons_append, List.cons_append, bytesNibbles_cons,
    bytesNibbles_cons, symbolsOf_scheduleMarks_cons, hsecond]
  exact ⟨_, rfl, rfl⟩

end Sys2Proof.Machine

/-! SUPPORT. What the two picking policies compute (rules R161 to R167): the strongest tone of each set, and the one
clear tone of each set among the top `N` bins. -/

namespace Sys2Proof.Machine

/-! ### PICK_UNVALIDATED -/

/-- The loop of rule R164 over the candidates `0 .. m`. -/
def firstMax (f : Nat → Nat) (m : Nat) : Nat :=
  (List.range' 1 m).foldl (fun best i => if f best < f i then i else best) 0

/-- `d` is the first of the candidates `0 .. m` at which `f` is greatest (rule R164, decision D17). -/
def IsFirstMax (f : Nat → Nat) (m d : Nat) : Prop := d ≤ m ∧ (∀ i ≤ m, f i ≤ f d) ∧ ∀ i < d, f i < f d

theorem isFirstMax_firstMax (f : Nat → Nat) (m : Nat) : IsFirstMax f m (firstMax f m) := by
  induction m with
  | zero => exact ⟨le_rfl, fun i hi => by rw [Nat.le_zero.mp hi]; rfl, fun i hi => absurd hi (Nat.not_lt_zero i)⟩
  | succ m ih =>
    obtain ⟨hle, hmax, hfirst⟩ := ih
    have hturn : firstMax f (m + 1) = if f (firstMax f m) < f (m + 1) then m + 1 else firstMax f m := by
      rw [firstMax, List.range'_concat, List.foldl_concat, Nat.one_mul, Nat.add_comm 1 m]
      rfl
    rw [hturn]
    split
    · next hgt =>
      refine ⟨le_rfl, fun i hi => ?_, fun i hi => (hmax i (Nat.le_of_lt_succ hi)).trans_lt hgt⟩
      obtain rfl | hlt := hi.eq_or_lt
      · exact le_rfl
      · exact (hmax i (Nat.le_of_lt_succ hlt)).trans hgt.le
    · next hge =>
      refine ⟨hle.trans (Nat.le_succ m), fun i hi => ?_, hfirst⟩
      obtain rfl | hlt := hi.eq_or_lt
      · exact not_lt.mp hge
      · exact hmax i (Nat.le_of_lt_succ hlt)

theorem bestDigit_isFirstMax (mag : List Nat) (set : FrequencySet) :
    IsFirstMax (toneMag mag set) (set.length - 1) (bestDigit mag set) :=
  isFirstMax_firstMax _ _

theorem IsFirstMax.eq {f : Nat → Nat} {m d e : Nat} (hd : IsFirstMax f m d) (he : IsFirstMax f m e) : d = e := by
  obtain ⟨hdle, hdmax, hdfirst⟩ := hd
  obtain ⟨hele, hemax, hefirst⟩ := he
  obtain hlt | heq | hgt := lt_trichotomy d e
  · exact absurd (hefirst d hlt) (not_lt.mpr (hdmax e hele))
  · exact heq
  · exact absurd (hdfirst e hgt) (not_lt.mpr (hemax d hdle))

/-- Only the order of the values matters. -/
theorem IsFirstMax.of_strictMono {f g φ : Nat → Nat} {m d : Nat} (hd : IsFirstMax f m d) (hφ : StrictMono φ)
    (h : ∀ i ≤ m, g i = φ (f i)) : IsFirstMax g m d := by
  obtain ⟨hle, hmax, hfirst⟩ := hd
  refine ⟨hle, fun i hi => ?_, fun i hi => ?_⟩
  · rw [h i hi, h d hle]
    exact hφ.monotone (hmax i hi)
  · rw [h i (hi.le.trans hle), h d hle]
    exact hφ (hfirst i hi)

/-- Settles O37: the digit of each set is the first greatest of that set's tones. -/
theorem unvalidatedPickIsTheStrongestTonePerSet : Obligations.UnvalidatedPickIsTheStrongestTonePerSet := by
  intro c mag
  refine ⟨c.alphabet.map (bestDigit mag), List.length_map _, fun k hk => ?_, rfl⟩
  have hdigit : (c.alphabet.map (bestDigit mag)).getD k 0 = bestDigit mag (c.alphabet.getD k []) :=
    List.getD_map c.alphabet [] (bestDigit mag)
  have hset : 1 ≤ (c.alphabet.getD k []).length := by
    rw [List.getD_eq_getElem _ _ hk]
    exact c.set_length_pos _ (List.getElem_mem hk)
  obtain ⟨-, hmax, hfirst⟩ := bestDigit_isFirstMax mag (c.alphabet.getD k [])
  rw [hdigit]
  exact ⟨bestDigit_lt mag _ hset, fun i hi => hmax i (Nat.le_sub_one_of_lt hi), hfirst⟩

/-! ### Rescaling a snapshot -/

section Rescale

variable {c : LegalConfig} {mag : List Nat} {φ : Nat → Nat} (hlen : mag.length = c.numBins) (hφ : StrictMono φ)

include hlen

theorem magAt_map {b : Nat} (h : b < c.numBins) : magAt (mag.map φ) b = φ (magAt mag b) := by
  have hb : b < mag.length := hlen ▸ h
  simp [magAt, List.getD_eq_getElem?_getD, hb]

theorem toneMag_map {set : FrequencySet} (hset : set ∈ c.alphabet) {i : Nat} (h : i < set.length) :
    toneMag (mag.map φ) set i = φ (toneMag mag set i) := by
  have hbin : (set.map Tone.bin).getD i 0 < c.numBins := by
    rw [List.getD_eq_getElem _ _ (by simpa using h), List.getElem_map]
    exact c.bin_lt set hset _ (List.getElem_mem h)
  exact magAt_map hlen hbin

include hφ

theorem ranksBefore_map_iff {a b : Nat} (ha : a < c.numBins) (hb : b < c.numBins) :
    ranksBefore (mag.map φ) a b ↔ ranksBefore mag a b := by
  simp only [ranksBefore, magAt_map hlen ha, magAt_map hlen hb, hφ.lt_iff_lt, hφ.injective.eq_iff]

/-- Both rankings are permutations of the bins, sorted by one order without ties. -/
theorem rankedBins_map : rankedBins c.toConfig (mag.map φ) = rankedBins c.toConfig mag := by
  have hperm := (rankedBins_perm c.toConfig (mag.map φ)).trans (rankedBins_perm c.toConfig mag).symm
  have hlt {a : Nat} (ha : a ∈ rankedBins c.toConfig (mag.map φ)) : a < c.numBins :=
    List.mem_range.mp ((rankedBins_perm c.toConfig (mag.map φ)).mem_iff.mp ha)
  have hsorted : (rankedBins c.toConfig (mag.map φ)).Pairwise (ranksBefore mag) :=
    (rankedBins_pairwise c.toConfig (mag.map φ)).imp_of_mem fun ha hb =>
      (ranksBefore_map_iff hlen hφ (hlt ha) (hlt hb)).mp
  refine hperm.eq_of_pairwise (fun a b _ _ hab hba => ?_) hsorted (rankedBins_pairwise c.toConfig mag)
  simp only [ranksBefore] at hab hba
  omega

theorem bestDigit_map {set : FrequencySet} (hset : set ∈ c.alphabet) :
    bestDigit (mag.map φ) set = bestDigit mag set := by
  have hpos := c.set_length_pos set hset
  refine (bestDigit_isFirstMax (mag.map φ) set).eq ((bestDigit_isFirstMax mag set).of_strictMono hφ fun i hi => ?_)
  exact toneMag_map hlen hset (by omega)

end Rescale

/-- Settles O39: the ranking of the bins is the same, and so is the strongest tone of each set. -/
theorem pickDependsOnlyOnTheOrderOfMagnitudes : Obligations.PickDependsOnlyOnTheOrderOfMagnitudes := by
  intro c mag φ hmag hφ
  obtain ⟨hlen, -⟩ := (snapshotOk_iff c.toConfig mag).mp hmag
  cases hmode : c.pickMode with
  | validated =>
    rw [pick_validated _ _ hmode, pick_validated _ _ hmode, pickValidated, pickValidated, rankedBins_map hlen hφ]
  | unvalidated =>
    rw [pick_unvalidated _ _ hmode, pick_unvalidated _ _ hmode, pickUnvalidated, pickUnvalidated,
      List.map_congr_left fun set hset => bestDigit_map hlen hφ hset]

/-! ### PICK_VALIDATED -/

/-- `BIN[k][i]` (rule R7). -/
def binOf (c : Config) (k i : Nat) : Nat := ((c.alphabet.getD k []).map Tone.bin).getD i 0

/-- `owners(b)` by digit and bin (rule R161). -/
theorem mem_owners_iff_binOf (c : Config) (b k i : Nat) :
    (k, i) ∈ owners c b ↔ k < c.n ∧ i < c.sizes.getD k 0 ∧ binOf c k i = b := by
  rw [mem_owners]
  constructor
  · rintro ⟨set, hset, t, ht, rfl⟩
    obtain ⟨hk, hi⟩ := digit_of_mem_owners c t.bin k i ((mem_owners c t.bin (k, i)).mpr ⟨set, hset, t, ht, rfl⟩)
    exact ⟨hk, hi, by simp_all [binOf, List.getD_eq_getElem?_getD]⟩
  · rintro ⟨hk, hi, rfl⟩
    have hset : c.alphabet[k]? = some c.alphabet[k] := List.getElem?_eq_getElem hk
    have hsize : i < c.alphabet[k].length := by
      simpa [Config.sizes, List.getD_eq_getElem?_getD, hset] using hi
    exact ⟨_, hset, _, List.getElem?_eq_getElem hsize, by simp [binOf, List.getD_eq_getElem?_getD, hset, hsize]⟩

theorem zipIdx_pairwise_snd_ne {α : Type} (l : List α) : l.zipIdx.Pairwise fun x y => x.2 ≠ y.2 :=
  List.pairwise_map.mp (List.nodup_zipIdx_map_snd l)

theorem ownersInSet_nodup (k b : Nat) (set : FrequencySet) : (ownersInSet k b set).Nodup := by
  refine List.pairwise_filterMap.mpr ((zipIdx_pairwise_snd_ne set).imp fun {x y} hne p hp q hq => ?_)
  simp only [Option.ite_none_right_eq_some, Option.some.injEq] at hp hq
  obtain ⟨-, rfl⟩ := hp
  obtain ⟨-, rfl⟩ := hq
  simpa using hne

theorem owners_nodup (c : Config) (b : Nat) : (owners c b).Nodup := by
  refine List.pairwise_flatMap.mpr ⟨fun sk _ => ownersInSet_nodup sk.2 b sk.1, ?_⟩
  refine (zipIdx_pairwise_snd_ne c.alphabet).imp fun {x y} hne p hp q hq hpq => hne ?_
  obtain ⟨hx, -⟩ := (mem_ownersInSet x.2 b x.1 p).mp hp
  obtain ⟨hy, -⟩ := (mem_ownersInSet y.2 b y.1 q).mp hq
  rw [← hx, ← hy, hpq]

theorem owners_eq_singleton_iff (c : Config) (b : Nat) (p : Nat × Nat) :
    owners c b = [p] ↔ ∀ q, q ∈ owners c b ↔ q = p := by
  rw [← List.perm_singleton, List.perm_ext_iff_of_nodup (owners_nodup c b) (List.nodup_singleton p)]
  simp only [List.mem_singleton]

/-- `BIN[k][i]` is the bin of a tone of set `k` (rule R7). -/
theorem binOf_eq_getElem (c : Config) {k i : Nat} (hk : k < c.n) (hi : i < c.sizes.getD k 0) :
    ∃ set ∈ c.alphabet, c.alphabet[k]? = some set ∧ ∃ h : i < (set.map Tone.bin).length,
      binOf c k i = (set.map Tone.bin)[i] := by
  have hset : c.alphabet.getD k [] = c.alphabet[k] := List.getD_eq_getElem _ _ hk
  have hsize : c.sizes.getD k 0 = (c.alphabet[k].map Tone.bin).length := by
    rw [List.length_map, ← hset]
    exact List.getD_map c.alphabet [] List.length
  refine ⟨c.alphabet[k], List.getElem_mem hk, List.getElem?_eq_getElem hk, hsize ▸ hi, ?_⟩
  rw [binOf, hset, List.getD_eq_getElem]

theorem binOf_lt (c : LegalConfig) {k i : Nat} (hk : k < c.n) (hi : i < c.sizes.getD k 0) :
    binOf c.toConfig k i < c.numBins := by
  obtain ⟨set, hset, -, h, hbin⟩ := binOf_eq_getElem c.toConfig hk hi
  rw [hbin, List.getElem_map]
  exact c.bin_lt set hset _ (List.getElem_mem _)

/-- The bins within a set are distinct (rule R282). -/
theorem binOf_inj (c : LegalConfig) {k i i' : Nat} (hk : k < c.n) (hi : i < c.sizes.getD k 0)
    (hi' : i' < c.sizes.getD k 0) (h : binOf c.toConfig k i' = binOf c.toConfig k i) : i' = i := by
  obtain ⟨set, hset, hk?, hlt, hbin⟩ := binOf_eq_getElem c.toConfig hk hi
  obtain ⟨set', -, hk?', hlt', hbin'⟩ := binOf_eq_getElem c.toConfig hk hi'
  obtain rfl : set' = set := Option.some.inj (hk?'.symm.trans hk?)
  rw [hbin, hbin'] at h
  exact (c.bins_nodup set' hset).getElem_inj_iff.mp h

/-- A bin has one owner if it is a bin of one set only. -/
theorem owners_binOf_eq_singleton_iff (c : LegalConfig) {k i : Nat} (hk : k < c.n) (hi : i < c.sizes.getD k 0) :
    owners c.toConfig (binOf c.toConfig k i) = [(k, i)] ↔
      ∀ k' i', k' < c.n → i' < c.sizes.getD k' 0 → binOf c.toConfig k' i' = binOf c.toConfig k i → k' = k := by
  rw [owners_eq_singleton_iff]
  constructor
  · intro h k' i' hk' hi' hbin
    exact congrArg Prod.fst ((h (k', i')).mp ((mem_owners_iff_binOf _ _ k' i').mpr ⟨hk', hi', hbin⟩))
  · rintro h ⟨k', i'⟩
    rw [mem_owners_iff_binOf]
    constructor
    · rintro ⟨hk', hi', hbin⟩
      obtain rfl := h k' i' hk' hi' hbin
      rw [binOf_inj c hk hi hi' hbin]
    · rintro hown
      obtain ⟨rfl, rfl⟩ := Prod.mk.inj hown
      exact ⟨hk, hi, rfl⟩

/-- The owner of a bin that has one. -/
def ownerOf (c : Config) (b : Nat) : Nat × Nat := (owners c b).headD (0, 0)

theorem ownerOf_eq {c : Config} {b : Nat} {p : Nat × Nat} (h : owners c b = [p]) : ownerOf c b = p := by
  rw [ownerOf, h]
  rfl

/-- What a digit adds to the Symbol (rule R162). -/
def digitWeight (c : Config) (p : Nat × Nat) : Nat := p.2 * c.mult p.1

/-- The loop of rule R162 succeeds when every selected bin has one owner, of a set of its own, and adds up the digits.
In this form the order of the selected bins plays no part. -/
theorem collectDigits_eq_some_iff (c : Config) (sel seen : List Nat) (acc r : Nat) :
    collectDigits c sel seen acc = some r ↔
      (∀ b ∈ sel, owners c b = [ownerOf c b]) ∧ (∀ b ∈ sel, (ownerOf c b).1 ∉ seen) ∧
      ((sel.map (ownerOf c)).map Prod.fst).Nodup ∧ r = acc + ((sel.map (ownerOf c)).map (digitWeight c)).sum := by
  induction sel generalizing seen acc with
  | nil => simp [collectDigits, eq_comm]
  | cons b sel ih =>
    rw [collectDigits]
    split
    · next k i hown =>
      have hb : ownerOf c b = (k, i) := ownerOf_eq hown
      split
      · next hseen =>
        simp [hb, hseen]
      · next hseen =>
        -- The rest avoiding `k :: seen` is the rest avoiding `seen` and `k` standing in no later pair.
        rw [ih]
        simp only [List.map_cons, List.nodup_cons, List.sum_cons, List.mem_map, hb, List.mem_cons, not_or, digitWeight,
          Nat.add_assoc]
        grind
    · next hown =>
      simp only [reduceCtorEq, List.forall_mem_cons, false_iff]
      rintro ⟨⟨hb, -⟩, -⟩
      exact hown _ _ hb

theorem collectDigits_perm (c : Config) {sel sel' : List Nat} (h : sel.Perm sel') :
    collectDigits c sel [] 0 = collectDigits c sel' [] 0 := by
  refine Option.ext fun r => ?_
  simp only [collectDigits_eq_some_iff, h.mem_iff, ((h.map _).map _).nodup_iff, ((h.map _).map _).sum_eq]

/-- The bins of one digit per set. -/
def chosenBins (c : Config) (d : List Nat) : List Nat := (List.range c.n).map fun k => binOf c k (d.getD k 0)

theorem mem_chosenBins {c : Config} {d : List Nat} {b : Nat} :
    b ∈ chosenBins c d ↔ ∃ k < c.n, binOf c k (d.getD k 0) = b := by
  simp [chosenBins]

theorem chosenBins_length (c : Config) (d : List Nat) : (chosenBins c d).length = c.n := by
  simp [chosenBins]

/-- One in-range digit per set, each in a bin of one owner. -/
structure UnsharedDigits (c : Config) (d : List Nat) : Prop where
  length_eq : d.length = c.n
  inRange : ∀ k < c.n, d.getD k 0 < c.sizes.getD k 0
  owners_eq : ∀ k < c.n, owners c (binOf c k (d.getD k 0)) = [(k, d.getD k 0)]

/-- Every chosen bin ranks before every bin not chosen (rule R163). -/
def Outranks (c : Config) (mag : List Nat) (d : List Nat) : Prop :=
  ∀ a ∈ chosenBins c d, ∀ b < c.numBins, b ∉ chosenBins c d → ranksBefore mag a b

theorem map_ownerOf_chosenBins {c : Config} {d : List Nat} (h : UnsharedDigits c d) :
    (chosenBins c d).map (ownerOf c) = (List.range c.n).map fun k => (k, d.getD k 0) := by
  rw [chosenBins, List.map_map]
  exact List.map_congr_left fun k hk => ownerOf_eq (h.owners_eq k (List.mem_range.mp hk))

/-- The loop on the bins of such digits gives their weight. -/
theorem collectDigits_chosenBins {c : Config} {d : List Nat} (h : UnsharedDigits c d) :
    collectDigits c (chosenBins c d) [] 0 = some (weighDigits c d) := by
  refine (collectDigits_eq_some_iff c _ [] 0 _).mpr ⟨fun b hb => ?_, fun _ _ => List.not_mem_nil, ?_, ?_⟩
  · obtain ⟨k, hk, rfl⟩ := mem_chosenBins.mp hb
    rw [ownerOf_eq (h.owners_eq k hk), h.owners_eq k hk]
  · rw [map_ownerOf_chosenBins h, List.map_map]
    exact (List.map_id _).symm ▸ List.nodup_range
  · rw [map_ownerOf_chosenBins h, List.map_map, Nat.zero_add]
    rfl

/-- Pairs with distinct first components that run through `0 .. n-1` are a list of second components, indexed. -/
theorem exists_perm_range_map {ps : List (Nat × Nat)} {n : Nat} (hnodup : (ps.map Prod.fst).Nodup)
    (hlt : ∀ p ∈ ps, p.1 < n) (hlen : ps.length = n) :
    ∃ d : List Nat, d.length = n ∧ ps.Perm ((List.range n).map fun k => (k, d.getD k 0)) := by
  have hkeys : (ps.map Prod.fst).Perm (List.range n) := by
    refine (List.subperm_of_subset hnodup fun k hk => ?_).perm_of_length_le (by simp [hlen])
    obtain ⟨p, hp, rfl⟩ := List.mem_map.mp hk
    exact List.mem_range.mpr (hlt p hp)
  have hvalue (k : Nat) : ∃ i, k < n → (k, i) ∈ ps := by
    by_cases hk : k < n
    · obtain ⟨p, hp, rfl⟩ := List.mem_map.mp (hkeys.mem_iff.mpr (List.mem_range.mpr hk))
      exact ⟨p.2, fun _ => hp⟩
    · exact ⟨0, fun h => absurd h hk⟩
  choose f hf using hvalue
  refine ⟨(List.range n).map f, by simp, ((List.subperm_of_subset ?_ fun p hp => ?_).perm_of_length_le ?_).symm⟩
  · exact List.Nodup.of_map Prod.fst (by simpa [Function.comp_def] using List.nodup_range)
  · obtain ⟨k, hk, rfl⟩ := List.mem_map.mp hp
    have hkn := List.mem_range.mp hk
    have hdigit : ((List.range n).map f).getD k 0 = f k := by simp [List.getD_eq_getElem?_getD, hkn]
    rw [hdigit]
    exact hf k hkn
  · simp [hlen]

section Selection

variable (c : LegalConfig) (mag : List Nat)

/-- The bins that `PICK_VALIDATED` selects (rule R162). -/
def topBins (c : Config) (mag : List Nat) : List Nat := (rankedBins c mag).take c.n

theorem topBins_length : (topBins c.toConfig mag).length = c.n := by
  simpa [topBins] using c.n_le_numBins

theorem rankedBins_nodup : (rankedBins c.toConfig mag).Nodup :=
  (rankedBins_perm c.toConfig mag).nodup_iff.mpr List.nodup_range

theorem topBins_nodup : (topBins c.toConfig mag).Nodup :=
  (rankedBins_nodup c mag).sublist (List.take_sublist _ _)

theorem mem_rankedBins (b : Nat) : b ∈ rankedBins c.toConfig mag ↔ b < c.numBins := by
  rw [(rankedBins_perm c.toConfig mag).mem_iff, List.mem_range]

theorem ranksBefore_of_mem_topBins {a b : Nat} (ha : a ∈ topBins c.toConfig mag) (hb : b < c.numBins)
    (hnot : b ∉ topBins c.toConfig mag) : ranksBefore mag a b := by
  have hsorted := rankedBins_pairwise c.toConfig mag
  have hmem := (mem_rankedBins c mag b).mpr hb
  rw [← List.take_append_drop c.n (rankedBins c.toConfig mag)] at hsorted hmem
  exact (List.pairwise_append.mp hsorted).2.2 a ha b ((List.mem_append.mp hmem).resolve_left hnot)

/-- A successful loop over the top bins chose one digit of each set. -/
theorem exists_digits_of_collectDigits (r : Nat) (h : collectDigits c.toConfig (topBins c.toConfig mag) [] 0 = some r) :
    ∃ d, UnsharedDigits c.toConfig d ∧ (topBins c.toConfig mag).Perm (chosenBins c.toConfig d) := by
  obtain ⟨hown, -, hnodup, -⟩ := (collectDigits_eq_some_iff _ _ _ _ _).mp h
  have hmem {b : Nat} (hb : b ∈ topBins c.toConfig mag) :=
    (mem_owners_iff_binOf c.toConfig b (ownerOf c.toConfig b).1 (ownerOf c.toConfig b).2).mp
      (by rw [hown b hb]; exact List.mem_singleton.mpr rfl)
  obtain ⟨d, hlen, hperm⟩ := exists_perm_range_map (n := c.n) (ps := (topBins c.toConfig mag).map (ownerOf c.toConfig))
    hnodup
    (by simpa using fun b hb => (hmem hb).1)
    (by simpa using topBins_length c mag)
  have hdigit (k : Nat) (hk : k < c.n) :
      ∃ b ∈ topBins c.toConfig mag, ownerOf c.toConfig b = (k, d.getD k 0) ∧ binOf c.toConfig k (d.getD k 0) = b := by
    obtain ⟨b, hb, heq⟩ := List.mem_map.mp
      (hperm.mem_iff.mpr (List.mem_map.mpr ⟨k, List.mem_range.mpr hk, rfl⟩))
    obtain ⟨-, -, hbin⟩ := hmem hb
    rw [heq] at hbin
    exact ⟨b, hb, heq, hbin⟩
  refine ⟨d, ⟨hlen, fun k hk => ?_, fun k hk => ?_⟩, ?_⟩
  · obtain ⟨b, hb, heq, -⟩ := hdigit k hk
    obtain ⟨-, hi, -⟩ := hmem hb
    rwa [heq] at hi
  · obtain ⟨b, hb, heq, hbin⟩ := hdigit k hk
    rw [hbin, hown b hb, heq]
  · have hbins : (topBins c.toConfig mag).map ((fun p => binOf c.toConfig p.1 p.2) ∘ ownerOf c.toConfig) =
        topBins c.toConfig mag := (List.map_congr_left fun b hb => (hmem hb).2.2).trans (List.map_id _)
    have hchosen := hperm.map fun p => binOf c.toConfig p.1 p.2
    rwa [List.map_map, List.map_map, hbins] at hchosen

theorem mem_topBins_lt {b : Nat} (h : b ∈ topBins c.toConfig mag) : b < c.numBins :=
  (mem_rankedBins c mag b).mp (List.mem_of_mem_take h)

theorem chosenBins_lt {d : List Nat} (h : UnsharedDigits c.toConfig d) (b : Nat)
    (hb : b ∈ chosenBins c.toConfig d) : b < c.numBins := by
  obtain ⟨k, hk, rfl⟩ := mem_chosenBins.mp hb
  exact binOf_lt c hk (h.inRange k hk)

theorem chosenBins_nodup {d : List Nat} (h : UnsharedDigits c.toConfig d) : (chosenBins c.toConfig d).Nodup := by
  refine (List.nodup_map_iff_inj_on List.nodup_range).mpr fun k hk k' hk' heq => ?_
  have hown := h.owners_eq k (List.mem_range.mp hk)
  rw [heq, h.owners_eq k' (List.mem_range.mp hk')] at hown
  exact (congrArg Prod.fst (List.cons.inj hown).1).symm

/-- Digits whose bins outrank all others are those of the top bins: a chosen bin outside the top would outrank, and be
outranked by, any top bin not chosen, and then the two lists of one length would have the same members. -/
theorem topBins_perm_chosenBins {d : List Nat} (h : UnsharedDigits c.toConfig d) (hout : Outranks c.toConfig mag d) :
    (topBins c.toConfig mag).Perm (chosenBins c.toConfig d) := by
  have hlen : (topBins c.toConfig mag).length = (chosenBins c.toConfig d).length := by
    rw [topBins_length, chosenBins_length]
  refine ((List.subperm_of_subset (chosenBins_nodup c h) fun a ha => ?_).perm_of_length_le hlen.le).symm
  by_contra hnot
  have hsub : topBins c.toConfig mag ⊆ chosenBins c.toConfig d := by
    intro b hb
    by_contra hb'
    have hab := hout a ha b (mem_topBins_lt c mag hb) hb'
    have hba := ranksBefore_of_mem_topBins c mag hb (chosenBins_lt c h a ha) hnot
    have hne : a ≠ b := fun heq => hb' (heq ▸ ha)
    simp only [ranksBefore] at hab hba
    omega
  have hperm := (List.subperm_of_subset (topBins_nodup c mag) hsub).perm_of_length_le hlen.ge
  exact hnot (hperm.mem_iff.mpr ha)

/-- `PICK_VALIDATED`, said of the digits it chooses (rules R162, R163). -/
theorem pickValidated_eq_some_iff (r : Nat) :
    pickValidated c.toConfig mag = some r ↔
      ∃ d, UnsharedDigits c.toConfig d ∧ Outranks c.toConfig mag d ∧ r = weighDigits c.toConfig d := by
  constructor
  · intro h
    obtain ⟨d, hd, hperm⟩ := exists_digits_of_collectDigits c mag r h
    refine ⟨d, hd, fun a ha b hb hnot => ?_, ?_⟩
    · exact ranksBefore_of_mem_topBins c mag (hperm.mem_iff.mpr ha) hb (mt hperm.mem_iff.mp hnot)
    · refine Option.some.inj (h.symm.trans ?_)
      rw [← collectDigits_chosenBins hd]
      exact collectDigits_perm c.toConfig hperm
  · rintro ⟨d, hd, hout, rfl⟩
    rw [← collectDigits_chosenBins hd]
    exact collectDigits_perm c.toConfig (topBins_perm_chosenBins c mag hd hout)

end Selection

/-- Between two bins `ranksBefore` is strict. -/
theorem ranksBefore_iff_of_ne {mag : List Nat} {a b : Nat} (h : b ≠ a) :
    ranksBefore mag a b ↔ magAt mag b < magAt mag a ∨ (magAt mag b = magAt mag a ∧ a < b) := by
  simp only [ranksBefore]
  omega

theorem not_mem_chosenBins {c : Config} {d : List Nat} {b : Nat} :
    b ∉ chosenBins c d ↔ ∀ k < c.n, b ≠ binOf c k (d.getD k 0) := by
  simp [mem_chosenBins, eq_comm]

/-- Settles O36: `pickValidated_eq_some_iff`, with single ownership and the ranking written out. -/
theorem validatedPickIsTheOneClearTonePerSet : Obligations.ValidatedPickIsTheOneClearTonePerSet := by
  intro c mag r bin
  rw [pickValidated_eq_some_iff]
  constructor
  · rintro ⟨d, ⟨hlen, hrange, hown⟩, hout, hr⟩
    refine ⟨d, hlen, hrange, fun k hk => (owners_binOf_eq_singleton_iff c hk (hrange k hk)).mp (hown k hk),
      fun k hk b hb hnot => ?_, hr⟩
    exact (ranksBefore_iff_of_ne (hnot k hk)).mp
      (hout _ (mem_chosenBins.mpr ⟨k, hk, rfl⟩) b hb (not_mem_chosenBins.mpr hnot))
  · rintro ⟨d, hlen, hrange, hunshared, hout, hr⟩
    refine ⟨d, ⟨hlen, hrange, fun k hk => (owners_binOf_eq_singleton_iff c hk (hrange k hk)).mpr (hunshared k hk)⟩,
      fun a ha b hb hnot => ?_, hr⟩
    obtain ⟨k, hk, rfl⟩ := mem_chosenBins.mp ha
    have hne := not_mem_chosenBins.mp hnot
    exact (ranksBefore_iff_of_ne (hne k hk)).mpr (hout k hk b hb hne)

end Sys2Proof.Machine

/-! SUPPORT. The response of a poll (rules R82, R232), and the stabilizer over runs of polls (rules R186, R190). -/

namespace Sys2Proof.Machine

section PollResponse

variable (raw : Option Nat) (s : State) (confirmed : Option Nat)

/-- The realValue of a poll that confirmed a Symbol (rules R121, R232). -/
def pollReal : Option Nat := confirmed.map fun r => (diffDec s.cfg.toConfig s.demod r).1

/-- The nibble that reaches framing, if any (rules R122, R232). -/
def pollNibble : Option Nibble := (pollReal s confirmed).map realNibble

/-- What FRAME_STEP made of that nibble (rule R232). -/
def pollEvent : Option FrameEvent := (pollNibble s confirmed).map fun n => (frameStep s.cfg.toConfig s.frame n).2

/-- The response of a poll, with the fields that are read after it read from the state it leaves (rule R232). -/
theorem receive_response :
    (receive raw s).response = some ⟨.ok, .poll (pollResponse (receive raw s) raw
      (stabStep s.cfg.toConfig s.stab raw).2 (pollReal s (stabStep s.cfg.toConfig s.stab raw).2)
      (pollNibble s (stabStep s.cfg.toConfig s.stab raw).2)
      ((pollEvent s (stabStep s.cfg.toConfig s.stab raw).2).getD .none))⟩ := by
  cases h : (stabStep s.cfg.toConfig s.stab raw).2 with
  | none => rw [receive_unconfirmed raw s h]; rfl
  | some r => rw [receive_confirmed raw s r h]; rfl

end PollResponse

/-- The three response fields that carry the event (rules R82, R83). -/
theorem pollResponse_event_fields (s : State) (raw confirmed real : Option Nat) (nibble : Option Nibble)
    {ev e : FrameEvent} (h : ev = e) :
    (pollResponse s raw confirmed real nibble ev).event = e.code ∧
      (pollResponse s raw confirmed real nibble ev).msgLen = e.msgLen ∧
      (pollResponse s raw confirmed real nibble ev).msgData = e.msgData := by
  rw [h]
  exact ⟨rfl, rfl, rfl⟩

/-- Settles O45: the fields are those of `receive_response`; the event's three follow the result of FRAME_STEP. -/
theorem rxPollResponseFields : Obligations.RxPollResponseFields := by
  intro s mag hmag c conf real nib ev
  have hev {e : Option FrameEvent} (h : ev = e) : (pollEvent s conf).getD .none = e.getD .none :=
    congrArg (Option.getD · FrameEvent.none) h
  refine ⟨_, _, execRxPoll_next s mag hmag, receive_response (pick c mag) s, rfl, rfl, rfl, rfl,
    fun q hmessage => pollResponse_event_fields _ _ _ _ _ (hev hmessage),
    fun hcorrupt => pollResponse_event_fields _ _ _ _ _ (hev hcorrupt), fun hnone => ?_, rfl, rfl, rfl⟩
  obtain hnone | hnone := hnone <;> exact pollResponse_event_fields _ _ _ _ _ (hev hnone)

/-- Settles O28: a poll and a message meet the check of their operands, and the other commands have none. -/
theorem everyReceivableCommandCompletes : Obligations.EveryReceivableCommandCompletes := by
  intro i s hwf
  cases i with
  | nop => exact ⟨_, _, rfl, rfl, by simp⟩
  | rxPoll mag => exact ⟨_, _, execRxPoll_next s mag hwf, receive_response _ s, by simp⟩
  | txPlay len data =>
    exact ⟨_, _, execTxPlay_next len data s ((payloadOk_iff len data).mp hwf), rfl, by simp⟩
  | reserved03 | reserved04 | reserved08 | reserved10 | reserved20 | reserved40 | reserved80 =>
    exact ⟨_, _, rfl, rfl, by simp⟩

/-- Settles O46: the event is that of FRAME_STEP on a confirmation, and `frameStep_event` says where it comes from. -/
theorem eventsComeOnlyFromACompletedChecksum : Obligations.EventsComeOnlyFromACompletedChecksum := by
  intro s t mag p hexec hresp hevent
  obtain ⟨-, rfl⟩ := execRxPoll_eq_next s mag t hexec
  rw [receive_response] at hresp
  cases hresp
  obtain ⟨r, hconf, -, hframe⟩ | ⟨hconf, -⟩ := receive_cases (pick s.cfg.toConfig mag) s
  · have hstep : (frameStep s.cfg.toConfig s.frame (realNibble (diffDec s.cfg.toConfig s.demod r).1)).2 ≠ .none := by
      intro hnone
      refine hevent ?_
      rw [hconf]
      exact congrArg FrameEvent.code hnone
    obtain ⟨hmode, hbuf, hwait⟩ := frameStep_event _ _ _ hstep
    exact ⟨fun hnone => absurd (hconf.symm.trans hnone) (Option.some_ne_none r), hmode, hbuf, hframe.trans hwait⟩
  · refine absurd ?_ hevent
    rw [hconf]
    rfl

/-! ### Runs of polls -/

section StabRun

variable (c : LegalConfig) (st : StabilizerState) (r : Nat)

theorem stabRun_cons (c : Config) (st : StabilizerState) (raw : Option Nat) (rs : List (Option Nat)) :
    stabRun c st (raw :: rs) =
      ((stabRun c (stabStep c st raw).1 rs).1, (stabStep c st raw).2 :: (stabRun c (stabStep c st raw).1 rs).2) := rfl

theorem stabRun_append (c : Config) (st : StabilizerState) (rs rs' : List (Option Nat)) :
    stabRun c st (rs ++ rs') =
      ((stabRun c (stabRun c st rs).1 rs').1, (stabRun c st rs).2 ++ (stabRun c (stabRun c st rs).1 rs').2) := by
  induction rs generalizing st with
  | nil => rfl
  | cons raw rs ih => simp [stabRun_cons, ih]

/-- The votes that `r` has: those of the candidate if it is `r` (rule R26). -/
def votesFor (st : StabilizerState) (r : Nat) : Nat := if st.cand = some r then st.votes else 0

theorem votesFor_confirmSymbol (r x : Nat) : votesFor (confirmSymbol x) r = 0 := rfl

variable {st r}

/-- A poll that reads `r` one vote before the threshold confirms it: the candidate is `r`, since one vote alone is below
the threshold (rules R183, R184). -/
theorem stabStep_at_threshold (ha : st.active ≠ some r) (hv : votesFor st r + 1 = c.cycleThreshold) :
    stabStep c.toConfig st (some r) = (confirmSymbol r, some r) := by
  have hthreshold := c.threshold_ge
  by_cases hc : st.cand = some r
  · exact stabStep_confirm c.toConfig st r ha hc (by simpa [votesFor, hc] using hv)
  · simp only [votesFor, hc, if_false] at hv
    omega

/-- Any other poll that reads `r` gives it one more vote (rules R183, R184). -/
theorem stabStep_below_threshold (ha : st.active ≠ some r) (hv : votesFor st r + 1 ≠ c.cycleThreshold) :
    ∃ st', stabStep c.toConfig st (some r) = (st', none) ∧ st'.active = st.active ∧
      votesFor st' r = votesFor st r + 1 := by
  by_cases hc : st.cand = some r
  · refine ⟨_, stabStep_vote c.toConfig st r ha hc (by simpa [votesFor, hc] using hv), rfl, by simp [votesFor, hc]⟩
  · exact ⟨_, stabStep_new c.toConfig st r ha hc, rfl, by simp [votesFor, hc]⟩

/-- Polls that read the Symbol just confirmed change nothing (rule R182). -/
theorem stabRun_confirmSymbol (k : Nat) :
    stabRun c.toConfig (confirmSymbol r) (List.replicate k (some r)) = (confirmSymbol r, List.replicate k none) := by
  induction k with
  | zero => rfl
  | succ k ih =>
    have hkept : (confirmSymbol r).clearCandidate = confirmSymbol r := rfl
    rw [List.replicate_succ, stabRun_cons, stabStep_steady c.toConfig (confirmSymbol r) r rfl, hkept, ih]
    rfl

/-- What each poll of a run of one reading confirms, counted from the votes it already has (rule R186). -/
theorem stabRun_replicate (k : Nat) (ha : st.active ≠ some r) (hv : votesFor st r < c.cycleThreshold) :
    (stabRun c.toConfig st (List.replicate k (some r))).2 =
      (List.range k).map fun j => if votesFor st r + j + 1 = c.cycleThreshold then some r else none := by
  induction k generalizing st with
  | zero => rfl
  | succ k ih =>
    rw [List.replicate_succ, stabRun_cons, List.range_succ_eq_map, List.map_cons, List.map_map]
    by_cases hlast : votesFor st r + 1 = c.cycleThreshold
    · have hnever (j : Nat) : votesFor st r + (j + 1) + 1 ≠ c.cycleThreshold := by omega
      simp [stabStep_at_threshold c ha hlast, stabRun_confirmSymbol, hlast, hnever, Function.comp_def]
    · obtain ⟨st', hstep, hactive, hvotes⟩ := stabStep_below_threshold c ha hlast
      rw [hstep, ih (hactive ▸ ha) (by dsimp only; omega), hvotes]
      simp [hlast, Function.comp_def, Nat.add_assoc, Nat.add_comm 1]

/-- Settles O47: a reading that is not the candidate starts without votes. -/
theorem runOfReadingsConfirmsExactlyOnce : Obligations.RunOfReadingsConfirmsExactlyOnce := by
  intro c st r k hc ha
  have hnone : votesFor st r = 0 := if_neg hc
  have hv : votesFor st r < c.cycleThreshold := by have := c.threshold_ge; omega
  simpa [hnone] using stabRun_replicate c k ha hv

/-- One poll adds at most one vote, and confirms nothing below the threshold (rules R183, R184). -/
theorem stabStep_none_of_votes_lt (c : Config) (st : StabilizerState) (raw : Option Nat)
    (h : st.votes + 1 < c.cycleThreshold) :
    (stabStep c st raw).2 = none ∧ (stabStep c st raw).1.votes ≤ st.votes + 1 := by
  obtain hstep | ⟨r, -, -, -, hv, -⟩ | ⟨r, -, -, -, -, hstep⟩ | ⟨r, -, -, -, hstep⟩ := stabStep_cases c st raw
  · simp [hstep, StabilizerState.clearCandidate]
  · omega
  · simp [hstep]
  · simp [hstep]

theorem stabRun_none_of_short (c : Config) (st : StabilizerState) (rs : List (Option Nat))
    (h : st.votes + rs.length < c.cycleThreshold) : ∀ y ∈ (stabRun c st rs).2, y = none := by
  induction rs generalizing st with
  | nil => exact fun y hy => absurd hy List.not_mem_nil
  | cons raw rs ih =>
    rw [List.length_cons] at h
    obtain ⟨hnone, hvotes⟩ := stabStep_none_of_votes_lt c st raw (by omega)
    exact List.forall_mem_cons.mpr ⟨hnone, ih _ (by omega)⟩

/-- Settles O48: a confirmation leaves no votes, and each later poll adds at most one. -/
theorem confirmationsAreSpacedByTheThreshold : Obligations.ConfirmationsAreSpacedByTheThreshold := by
  intro c st raw x rs hconf hlen
  obtain ⟨r, -, hstep⟩ | ⟨hnone, -⟩ := stabStep_confirms_cases c.toConfig st raw
  · refine stabRun_none_of_short c.toConfig _ rs ?_
    rw [hstep]
    exact (Nat.zero_add rs.length).symm ▸ hlen
  · exact absurd (hconf.symm.trans hnone) (Option.some_ne_none x)

end StabRun

end Sys2Proof.Machine

/-! SUPPORT. Framing after the tag (rules R202 to R204, R211), and the checksum's detection power (rule R212). -/

namespace Sys2Proof.Machine

theorem ofNat_eq_joinNibbles (hi lo : Nibble) : BitVec.ofNat 8 (16 * hi.toNat + lo.toNat) = joinNibbles hi lo := by
  rw [← joinNibbles_toNat, BitVec.ofNat_toNat, BitVec.setWidth_eq]

/-- Settles O50: the byte is zero when both its nibbles are. -/
theorem lengthByteSelectsTheNextMode : Obligations.LengthByteSelectsTheNextMode := by
  intro c f hi lo hmode hbuf
  refine ⟨frameStep_length_first c.toConfig f hi hmode hbuf, fun hz => ?_, fun hz => ?_⟩
  · exact frameStep_length_zero c.toConfig { f with buf := [hi] } lo hi hmode rfl ((joinNibbles_eq_zero hi lo).mpr hz)
  · rw [ofNat_eq_joinNibbles]
    exact frameStep_length_nonzero c.toConfig { f with buf := [hi] } lo hi hmode rfl
      (mt (joinNibbles_eq_zero hi lo).mp hz)

/-- Settles O52. -/
theorem checksumByteGivesTheVerdict : Obligations.ChecksumByteGivesTheVerdict := by
  intro c f hi lo hmode hbuf
  rw [ofNat_eq_joinNibbles]
  exact ⟨frameStep_checksum_first c.toConfig f hi hmode hbuf,
    frameStep_checksum_verdict c.toConfig { f with buf := [hi] } lo hi hmode rfl⟩

section FrameRun

variable (c : Config)

theorem frameRun_cons (f : FrameState) (n : Nibble) (ns : List Nibble) :
    frameRun c f (n :: ns) =
      ((frameRun c (frameStep c f n).1 ns).1, (frameStep c f n).2 :: (frameRun c (frameStep c f n).1 ns).2) := rfl

theorem frameRun_append (f : FrameState) (ns ms : List Nibble) :
    frameRun c f (ns ++ ms) =
      ((frameRun c (frameRun c f ns).1 ms).1, (frameRun c f ns).2 ++ (frameRun c (frameRun c f ns).1 ms).2) := by
  induction ns generalizing f with
  | nil => rfl
  | cons n ns ih => simp [frameRun_cons, ih]

/-- The state after the length byte (rule R202). -/
def FrameState.afterLength (len : Byte) : FrameState :=
  if len = 0#8 then ⟨.waitChecksum, [], 0#8, []⟩ else ⟨.waitContents, [], len, []⟩

theorem frameRun_lengthByte (len : Byte) :
    frameRun c ⟨.waitLength, [], 0#8, []⟩ (byteNibbles len) = (FrameState.afterLength len, [.none, .none]) := by
  rw [byteNibbles, frameRun_cons, frameStep_length_first c _ _ rfl rfl, frameRun_cons]
  by_cases hz : len = 0#8
  · rw [frameStep_length_zero c _ _ (highNibble len) rfl rfl (by rwa [joinNibbles_split])]
    simp [frameRun, FrameState.afterLength, hz]
  · rw [frameStep_length_nonzero c _ _ (highNibble len) rfl rfl (by rwa [joinNibbles_split])]
    simp [frameRun, FrameState.afterLength, hz]

/-- The nibbles that fill the buffer make the payload (rule R203). -/
theorem frameRun_contents (len : Byte) (buf : List Nibble) (n : Nibble) (ns : List Nibble)
    (h : buf.length + (ns.length + 1) = 2 * len.toNat) :
    frameRun c ⟨.waitContents, buf, len, []⟩ (n :: ns) =
      (⟨.waitChecksum, [], len, pairBytes (buf ++ n :: ns)⟩, List.replicate (ns.length + 1) .none) := by
  induction ns generalizing buf n with
  | nil =>
    rw [frameRun_cons, frameStep_contents_done c _ _ rfl (by simpa using h)]
    rfl
  | cons n' ns ih =>
    rw [List.length_cons] at h
    rw [frameRun_cons, frameStep_contents_more c _ _ rfl (by dsimp only; omega),
      ih (buf ++ [n]) n' (by simp; omega), List.append_assoc]
    rfl

/-- The payload's nibbles, none of them for a length of 0 (rules R202, R203, decision D20). -/
theorem frameRun_payload (len : Byte) (data : List Byte) (h : data.length = len.toNat) :
    frameRun c (FrameState.afterLength len) (bytesNibbles data) =
      (⟨.waitChecksum, [], len, data⟩, List.replicate (2 * len.toNat) .none) := by
  by_cases hz : len = 0#8
  · subst hz
    obtain rfl : data = [] := List.eq_nil_of_length_eq_zero h
    rfl
  · have hpos : len.toNat ≠ 0 := fun h0 => hz (BitVec.eq_of_toNat_eq h0)
    have hlen : (bytesNibbles data).length = 2 * len.toNat := by rw [bytesNibbles_length, h]
    obtain ⟨n, ns, hns⟩ := List.exists_cons_of_length_pos (l := bytesNibbles data) (by omega)
    have hcount : ns.length + 1 = 2 * len.toNat := by rw [← hlen, hns, List.length_cons]
    rw [FrameState.afterLength, if_neg hz, hns, frameRun_contents c len [] n ns (by simpa using hcount), hcount,
      List.nil_append, ← hns, pairBytes_bytesNibbles]

/-- The verdict of rule R204 on a received checksum byte. -/
def verdict (data : List Byte) (sum : Byte) : FrameEvent := if sum = checksum data then .message data else .corrupt

theorem frameRun_checksumByte (len sum : Byte) (data : List Byte) :
    frameRun c ⟨.waitChecksum, [], len, data⟩ (byteNibbles sum) =
      (FrameState.waiting, [.none, verdict data sum]) := by
  rw [byteNibbles, frameRun_cons, frameStep_checksum_first c _ _ rfl rfl, frameRun_cons,
    frameStep_checksum_verdict c _ _ (highNibble sum) rfl rfl, joinNibbles_split]
  rfl

/-- After the tag: length byte, payload and checksum byte give one event, on the last nibble (rule R211). -/
theorem frameRun_afterTag (len sum : Byte) (data : List Byte) (h : data.length = len.toNat) :
    frameRun c ⟨.waitLength, [], 0#8, []⟩ (byteNibbles len ++ bytesNibbles data ++ byteNibbles sum) =
      (FrameState.waiting, List.replicate (2 * len.toNat + 3) .none ++ [verdict data sum]) := by
  have hevents : [FrameEvent.none, .none] ++ List.replicate (2 * len.toNat) .none ++ [.none, verdict data sum] =
      List.replicate (2 * len.toNat + 3) .none ++ [verdict data sum] := by
    rw [List.replicate_succ', List.replicate_succ, List.replicate_succ]
    simp
  rw [frameRun_append, frameRun_append, frameRun_lengthByte, frameRun_payload c len data h, frameRun_checksumByte,
    hevents]

end FrameRun

/-- Settles O53. -/
theorem messageEventComesOnItsLastNibble : Obligations.MessageEventComesOnItsLastNibble :=
  fun c len sum data h => frameRun_afterTag c.toConfig len sum data h

/-- Replacing one byte by another changes the XOR (rule R212). -/
theorem checksum_set_ne (data : List Byte) (j : Nat) (b wrong : Byte) (hb : data[j]? = some b) (hne : wrong ≠ b) :
    checksum (data.set j wrong) ≠ checksum data := by
  induction data generalizing j with
  | nil => simp at hb
  | cons a data ih =>
    cases j with
    | zero =>
      obtain rfl : a = b := by simpa using hb
      rw [List.set_cons_zero, checksum_cons, checksum_cons]
      exact fun heq => hne ((BitVec.xor_left_inj _).mp heq)
    | succ j =>
      rw [List.set_cons_succ, checksum_cons, checksum_cons]
      exact fun heq => ih j (by simpa using hb) ((BitVec.xor_right_inj _).mp heq)

theorem frameRun_corrupt (c : Config) (len sum : Byte) (data : List Byte) (h : data.length = len.toNat)
    (hsum : sum ≠ checksum data) :
    ∃ f evs, frameRun c ⟨.waitLength, [], 0#8, []⟩ (byteNibbles len ++ bytesNibbles data ++ byteNibbles sum) =
        (f, evs) ∧
      (∀ p, .message p ∉ evs) ∧ evs.getLast? = some .corrupt := by
  refine ⟨_, _, frameRun_afterTag c len sum data h, ?_⟩
  simp [verdict, hsum]

/-- Settles O54: either way the checksum byte is not the XOR of the payload bytes received. -/
theorem oneWrongByteIsReportedCorrupt : Obligations.OneWrongByteIsReportedCorrupt := by
  refine fun c len data h => ⟨fun j b wrong hb hne => ?_, fun wrong hne => ?_⟩
  · exact frameRun_corrupt c.toConfig len _ _ (by simpa using h) (checksum_set_ne data j b wrong hb hne).symm
  · exact frameRun_corrupt c.toConfig len wrong data h hne

end Sys2Proof.Machine

/-! SUPPORT. A whole session (rules R125, R186, R211, R288): what a run of polls sends to the decoded-output sink, what
the stabilizer confirms of a message polled Mark by Mark, and how framing finds the tag after at most one stray nibble. -/

namespace Sys2Proof.Machine

/-! ### The receive pipeline over a run of polls -/

/-- The command that a host presents to poll one snapshot. -/
def pollCommand (mag : List Nat) : PortEvent := .command (encode (.rxPoll mag))

/-- The Symbols that a run of readings confirms, in order. -/
def confirmations (c : Config) (st : StabilizerState) (raws : List (Option Nat)) : List Nat :=
  (stabRun c st raws).2.reduceOption

/-- The nibbles that reach framing for a sequence of confirmed Symbols (rules R122, R185). -/
def nibblesOf (c : Config) (rxLast : Nat) (confirmed : List Nat) : List Nibble :=
  (decodeAll c rxLast confirmed).map realNibble

/-- The nibbles that reach framing over a run of readings from `s`. -/
def heardNibbles (s : State) (raws : List (Option Nat)) : List Nibble :=
  nibblesOf s.cfg.toConfig s.demod.rxLast (confirmations s.cfg.toConfig s.stab raws)

/-- Framing over the run, state and events. -/
def frameHeard (s : State) (raws : List (Option Nat)) : FrameState × List FrameEvent :=
  frameRun s.cfg.toConfig s.frame (heardNibbles s raws)

/-- One poll takes its own nibble, if any, off the front of the run (rule R185). -/
theorem frameHeard_cons (s : State) (raw : Option Nat) (raws : List (Option Nat)) :
    frameHeard s (raw :: raws) = ((frameHeard (receive raw s) raws).1,
      (pollEvent s (stabStep s.cfg.toConfig s.stab raw).2).toList ++ (frameHeard (receive raw s) raws).2) := by
  simp only [frameHeard, heardNibbles, confirmations, stabRun_cons, receive_cfg, receive_stab]
  obtain ⟨r, hconf, hdemod, hframe⟩ | ⟨hconf, hdemod, hframe⟩ := receive_cases raw s
  · rw [hconf, hdemod, hframe, List.reduceOption_cons_of_some]
    rfl
  · rw [hconf, hdemod, hframe, List.reduceOption_cons_of_none]
    rfl

/-- What an event sends to the decoded-output sink (rules R82, R265). -/
def FrameEvent.toSink (ev : FrameEvent) : Option (EventCode × Byte × List Byte) :=
  if ev.code = .none then Option.none else some (ev.code, ev.msgLen, ev.msgData)

/-- A poll sends the event of its FRAME_STEP, if it ran one. -/
theorem receive_toSink (raw : Option Nat) (s : State) :
    sinkEvents (receive raw s).response.toList =
      (pollEvent s (stabStep s.cfg.toConfig s.stab raw).2).toList.filterMap FrameEvent.toSink := by
  rw [receive_response]
  cases pollEvent s (stabStep s.cfg.toConfig s.stab raw).2 with
  | none => rfl
  | some ev => cases ev <;> rfl

theorem step_pollCommand (s : State) (mag : List Nat) (rest : List PortEvent)
    (hport : s.port = pollCommand mag :: rest) (hmag : snapshotOk s.cfg.toConfig mag = true) :
    step s = .next (receive (pick s.cfg.toConfig mag) (s.withPort rest)) := by
  rw [step_of_decode_eq_ok s _ rest _ hport (decode_encode s.cfg.toConfig (.rxPoll mag) hmag)]
  exact execRxPoll_next (s.withPort rest) mag hmag

theorem transcript_succ (k : Nat) (s t u : State) (rs : List Response) (hstep : step s = .next t)
    (hrest : transcript k t = some (u, rs)) : transcript (k + 1) s = some (u, t.response.toList ++ rs) := by
  simp [transcript, hstep, hrest]

/-- A session of polls completes; framing runs over the nibbles heard, and the sink gets its events (rule R265). -/
theorem transcript_polls (s : State) (snaps : List (List Nat)) (hport : s.port = snaps.map pollCommand)
    (hok : ∀ mag ∈ snaps, snapshotOk s.cfg.toConfig mag = true) :
    ∃ t rs, transcript snaps.length s = some (t, rs) ∧ t.port = [] ∧ t.mod = s.mod ∧
      t.frame = (frameHeard s (snaps.map (pick s.cfg.toConfig))).1 ∧
      sinkEvents rs = (frameHeard s (snaps.map (pick s.cfg.toConfig))).2.filterMap FrameEvent.toSink := by
  induction snaps generalizing s with
  | nil => exact ⟨s, [], rfl, hport, rfl, rfl, rfl⟩
  | cons mag snaps ih =>
    obtain ⟨hmag, hrest⟩ := List.forall_mem_cons.mp hok
    have hstep := step_pollCommand s mag (snaps.map pollCommand) hport hmag
    have hheard := frameHeard_cons (s.withPort (snaps.map pollCommand)) (pick s.cfg.toConfig mag)
      (snaps.map (pick s.cfg.toConfig))
    have hsink := receive_toSink (pick s.cfg.toConfig mag) (s.withPort (snaps.map pollCommand))
    obtain ⟨t, rs, hrun, htport, htmod, htframe, htsink⟩ :=
      ih (receive (pick s.cfg.toConfig mag) (s.withPort (snaps.map pollCommand))) (by simp) (by simpa using hrest)
    rw [receive_cfg, State.withPort_cfg] at htframe htsink
    refine ⟨t, _, transcript_succ _ s _ t rs hstep hrun, htport, by simpa using htmod, ?_, ?_⟩
    · exact htframe.trans (congrArg Prod.fst hheard).symm
    · refine Eq.trans ?_ (congrArg (fun run => run.2.filterMap FrameEvent.toSink) hheard).symm
      rw [sinkEvents, List.filterMap_append, List.filterMap_append, ← htsink, ← hsink]
      rfl

/-! ### The Symbols of a message, polled Mark by Mark -/

section Marks

variable (c : LegalConfig) {st : StabilizerState} {r : Nat}

/-- One Mark of a Symbol that is not the active one is confirmed once (rule R186). -/
theorem confirmations_mark (k : Nat) (ha : st.active ≠ some r) (hv : votesFor st r < c.cycleThreshold)
    (hk : c.cycleThreshold ≤ votesFor st r + k) :
    (stabRun c.toConfig st (List.replicate k (some r))).1 = confirmSymbol r ∧
      confirmations c.toConfig st (List.replicate k (some r)) = [r] := by
  induction k generalizing st with
  | zero => omega
  | succ k ih =>
    rw [confirmations, List.replicate_succ, stabRun_cons]
    by_cases hlast : votesFor st r + 1 = c.cycleThreshold
    · rw [stabStep_at_threshold c ha hlast, stabRun_confirmSymbol]
      simp
    · obtain ⟨st', hstep, hactive, hvotes⟩ := stabStep_below_threshold c ha hlast
      rw [hstep, List.reduceOption_cons_of_none]
      exact ih (hactive ▸ ha) (by dsimp only; omega) (by dsimp only; omega)

/-- A Mark of the active Symbol is not confirmed again (rule R182). -/
theorem confirmations_steady (k : Nat) (ha : st.active = some r) (hk : 0 < k) :
    (stabRun c.toConfig st (List.replicate k (some r))).1 = confirmSymbol r ∧
      confirmations c.toConfig st (List.replicate k (some r)) = [] := by
  obtain ⟨k, rfl⟩ := Nat.exists_eq_add_one.mpr hk
  have hclear : st.clearCandidate = confirmSymbol r := by simp [StabilizerState.clearCandidate, confirmSymbol, ha]
  rw [confirmations, List.replicate_succ, stabRun_cons, stabStep_steady c.toConfig st r ha, hclear,
    stabRun_confirmSymbol]
  simp

theorem confirmations_append (c : Config) (st : StabilizerState) (rs rs' : List (Option Nat)) :
    confirmations c st (rs ++ rs') = confirmations c st rs ++ confirmations c (stabRun c st rs).1 rs' := by
  rw [confirmations, stabRun_append, List.reduceOption_append]
  rfl

/-- The readings of Symbols polled `polls` times each. -/
def markReadings (polls : Nat) (syms : List Nat) : List (Option Nat) :=
  syms.flatMap fun r => List.replicate polls (some r)

theorem markReadings_cons (polls r : Nat) (syms : List Nat) :
    markReadings polls (r :: syms) = List.replicate polls (some r) ++ markReadings polls syms := rfl

/-- Of Symbols no two neighbours of which are equal, each is confirmed once (rules R143, R186). -/
theorem confirmations_markReadings {polls : Nat} (hpolls : c.cycleThreshold ≤ polls) (a : Nat) (syms : List Nat)
    (h : (a :: syms).IsChain (· ≠ ·)) :
    confirmations c.toConfig (confirmSymbol a) (markReadings polls syms) = syms := by
  induction syms generalizing a with
  | nil => rfl
  | cons r syms ih =>
    obtain ⟨hne, hrest⟩ := List.isChain_cons_cons.mp h
    have hzero := votesFor_confirmSymbol r a
    have hthreshold := c.threshold_ge
    obtain ⟨hstate, hconf⟩ := confirmations_mark c polls (st := confirmSymbol a) (r := r)
      (by simpa [confirmSymbol] using hne) (by omega) (by omega)
    rw [markReadings_cons, confirmations_append, hconf, hstate, ih r hrest]
    rfl

theorem votesFor_lt (h : st.Inv c.toConfig) (r : Nat) : votesFor st r < c.cycleThreshold := by
  obtain ⟨hvotes, -⟩ := h
  have hthreshold := c.threshold_ge
  unfold votesFor
  split <;> omega

/-- The first Mark is confirmed unless its Symbol is already the active one; each later Mark is confirmed once. -/
theorem confirmations_firstMark {polls : Nat} (hpolls : c.cycleThreshold ≤ polls) (hinv : st.Inv c.toConfig)
    (syms : List Nat) (h : (r :: syms).IsChain (· ≠ ·)) :
    confirmations c.toConfig st (markReadings polls (r :: syms)) =
      if st.active = some r then syms else r :: syms := by
  have hrest := confirmations_markReadings c hpolls r syms h
  have hthreshold := c.threshold_ge
  rw [markReadings_cons, confirmations_append]
  split
  · next ha =>
    obtain ⟨hstate, hconf⟩ := confirmations_steady c polls ha (by omega)
    rw [hconf, hstate, hrest]
    rfl
  · next ha =>
    obtain ⟨hstate, hconf⟩ := confirmations_mark c polls ha (votesFor_lt c hinv r) (by omega)
    rw [hconf, hstate, hrest]
    rfl

/-- A decoder in step with a schedule hands its nibbles to framing (rules R122, R125). -/
theorem nibblesOf_symbolsOf_scheduleMarks (m : ModulatorState) (ns : List Nibble) (h : m.txLast < c.pv) :
    nibblesOf c.toConfig m.txLast (symbolsOf (scheduleMarks c.toConfig m ns).1) = ns := by
  rw [nibblesOf, decodeAll_symbolsOf_scheduleMarks c m ns h, List.map_map]
  exact (List.map_congr_left (g := id) fun n _ => by simp [realNibble]).trans (List.map_id ns)

theorem mem_symbolsOf_scheduleMarks_lt (m : ModulatorState) (ns : List Nibble) :
    ∀ r ∈ symbolsOf (scheduleMarks c.toConfig m ns).1, r < c.pv := by
  induction ns generalizing m with
  | nil => simp [symbolsOf]
  | cons n ns ih =>
    rw [symbolsOf_scheduleMarks_cons]
    exact List.forall_mem_cons.mpr ⟨diffEncSymbol_lt c m.txLast n, ih _⟩

end Marks

/-- The nibbles that a polled message brings to framing: those of its bytes, after the stray nibble of the first Mark
unless that Mark's Symbol was already active (rules R144, R288). -/
theorem heardNibbles_message (s : State) (hinv : s.Inv) (len : Byte) (data : List Byte) (polls : Nat)
    (hpolls : s.cfg.cycleThreshold ≤ polls) :
    ∃ stray : List Nibble, stray.length ≤ 1 ∧
      heardNibbles s (markReadings polls (symbolsOf (playMessage s.cfg.toConfig len data).1)) =
        stray ++ bytesNibbles (messageBytes s.cfg.toConfig len data) := by
  obtain ⟨-, hstab, ⟨hagree, -⟩, -⟩ := hinv
  have hone : 1 < s.cfg.pv := by have := s.cfg.pv_ge; omega
  have hnibbles := nibblesOf_symbolsOf_scheduleMarks s.cfg ⟨1, 1⟩
    (bytesNibbles (messageBytes s.cfg.toConfig len data)) hone
  have hchain := symbolsOf_scheduleMarks_isChain s.cfg ⟨1, 1⟩
    (bytesNibbles (messageBytes s.cfg.toConfig len data)) hone
  rw [heardNibbles, symbolsOf_playMessage, confirmations_firstMark s.cfg hpolls hstab _ hchain]
  split
  · next ha =>
    have hlast : s.demod.rxLast = 1 := by
      obtain ⟨hnone, -⟩ | hsome := hagree
      · simp [hnone] at ha
      · exact Option.some.inj (hsome.symm.trans ha)
    exact ⟨[], Nat.zero_le 1, by rw [hlast, hnibbles]; rfl⟩
  · refine ⟨[realNibble (diffDecReal s.cfg.toConfig s.demod.rxLast 1)], le_rfl, ?_⟩
    exact congrArg (realNibble (diffDecReal s.cfg.toConfig s.demod.rxLast 1) :: ·) hnibbles

/-! ### The tag after at most one stray nibble -/

section Tag

variable (c : Config)

/-- `WAIT_TAG` with window `w`. -/
def searching (w : List Nibble) : FrameState := ⟨.waitTag, w, 0#8, []⟩

theorem frameStep_searching_match {w : List Nibble} {n : Nibble} (h : slideWindow c w n = tagNibbles c) :
    frameStep c (searching w) n = (⟨.waitLength, [], 0#8, []⟩, .none) :=
  frameStep_tag_match c (searching w) n rfl h

theorem frameStep_searching_slide {w : List Nibble} {n : Nibble} (h : slideWindow c w n ≠ tagNibbles c) :
    frameStep c (searching w) n = (searching (slideWindow c w n), .none) :=
  frameStep_tag_slide c (searching w) n rfl h

theorem slideWindow_of_short {w : List Nibble} {n : Nibble} (h : w.length + 1 ≤ 2 * c.tagLen) :
    slideWindow c w n = w ++ [n] :=
  if_neg (by simpa using h)

/-- A list that a shift by one place leaves as it is repeats one element. -/
theorem eq_replicate_of_cons_eq_concat {α : Type} (a x : α) (p : List α) (h : a :: p = p ++ [x]) :
    p ++ [x] = List.replicate (p.length + 1) a := by
  induction p with
  | nil => simpa [eq_comm] using h
  | cons y p ih =>
    obtain ⟨rfl, hrest⟩ := List.cons.inj h
    rw [List.cons_append, ih hrest]
    rfl

/-- While nibbles of the tag are still to come, the window is not the tag: it is shorter, or it is the tag shifted by
the stray nibble, which the premise excludes. -/
theorem stray_append_ne_tagNibbles (hne : ∀ n, tagNibbles c ≠ List.replicate (2 * c.tagLen) n)
    {stray p rest : List Nibble} {x : Nibble} (hstray : stray.length ≤ 1) (htag : p ++ x :: rest = tagNibbles c) :
    stray ++ p ≠ tagNibbles c := by
  intro heq
  have hlen := congrArg List.length (heq.trans htag.symm)
  simp only [List.length_append, List.length_cons] at hlen
  obtain ⟨g, rfl⟩ := List.length_eq_one_iff.mp (show stray.length = 1 by omega)
  obtain rfl : rest = [] := List.eq_nil_of_length_eq_zero (by omega)
  have hrepeat := eq_replicate_of_cons_eq_concat g x p (heq.trans htag.symm)
  have hcount : p.length + 1 = 2 * c.tagLen := by simpa [← htag] using tagNibbles_length c
  exact hne g (by rw [← htag, hrepeat, hcount])

/-- The tag is found on its last nibble, when it slides the stray nibble out of the window (rules R201, R288). -/
theorem frameRun_tag (hne : ∀ n, tagNibbles c ≠ List.replicate (2 * c.tagLen) n) {stray : List Nibble}
    (hstray : stray.length ≤ 1) (p rest : List Nibble) (n : Nibble) (htag : p ++ n :: rest = tagNibbles c) :
    frameRun c (searching (stray ++ p)) (n :: rest) =
      (⟨.waitLength, [], 0#8, []⟩, List.replicate (rest.length + 1) .none) := by
  have hlen : p.length + (rest.length + 1) = 2 * c.tagLen := by simpa [← htag] using tagNibbles_length c
  induction rest generalizing p n with
  | nil =>
    have hmatch : slideWindow c (stray ++ p) n = tagNibbles c := by
      rw [← htag]
      obtain rfl | ⟨g, rfl⟩ := eq_nil_or_singleton_of_length_le_one hstray
      · exact slideWindow_of_short c hlen.le
      · exact if_pos (by simpa using hlen.ge)
    rw [frameRun_cons, frameStep_searching_match c hmatch]
    rfl
  | cons n' rest ih =>
    rw [List.length_cons] at hlen
    have hslide : slideWindow c (stray ++ p) n = stray ++ (p ++ [n]) := by
      rw [slideWindow_of_short c (by rw [List.length_append]; omega), List.append_assoc]
    have hnext : (p ++ [n]) ++ n' :: rest = tagNibbles c := by rw [List.append_assoc]; exact htag
    rw [frameRun_cons, frameStep_searching_slide c (hslide ▸ stray_append_ne_tagNibbles c hne hstray hnext), hslide,
      ih (p ++ [n]) n' hnext (by simp; omega)]
    rfl

/-- A stray nibble alone is not the tag, which has two nibbles at least. -/
theorem frameRun_stray (hpos : 1 ≤ c.tagLen) {stray : List Nibble} (hstray : stray.length ≤ 1) :
    frameRun c (searching []) stray = (searching stray, List.replicate stray.length .none) := by
  obtain rfl | ⟨g, rfl⟩ := eq_nil_or_singleton_of_length_le_one hstray
  · rfl
  · have hslide : slideWindow c [] g = [g] := slideWindow_of_short c (by simp; omega)
    have hne : slideWindow c [] g ≠ tagNibbles c := fun heq => by
      have hlen := congrArg List.length heq
      rw [hslide, tagNibbles_length, List.length_singleton] at hlen
      omega
    rw [frameRun_cons, frameStep_searching_slide c hne, hslide]
    rfl

/-- Framing gives a message after at most one stray nibble its one event, on the last nibble (rules R211, R288). -/
theorem frameRun_message (hpos : 1 ≤ c.tagLen) (hne : ∀ n, tagNibbles c ≠ List.replicate (2 * c.tagLen) n)
    {stray : List Nibble} (hstray : stray.length ≤ 1) (len : Byte) (data : List Byte) (h : data.length = len.toNat) :
    ∃ k, frameRun c FrameState.waiting (stray ++ bytesNibbles (messageBytes c len data)) =
      (FrameState.waiting, List.replicate k .none ++ [.message data]) := by
  obtain ⟨n, rest, htag⟩ := List.exists_cons_of_length_pos (l := tagNibbles c) (by rw [tagNibbles_length]; omega)
  have hbytes : bytesNibbles (messageBytes c len data) =
      tagNibbles c ++ (byteNibbles len ++ bytesNibbles data ++ byteNibbles (checksum data)) := by
    simp [messageBytes, bytesNibbles_append, tagNibbles, byteNibbles]
  have hfound : frameRun c (searching stray) (tagNibbles c) =
      (⟨.waitLength, [], 0#8, []⟩, List.replicate (rest.length + 1) .none) := by
    simpa [htag] using frameRun_tag c hne hstray [] rest n htag.symm
  refine ⟨stray.length + (rest.length + 1) + (2 * len.toNat + 3), ?_⟩
  have hstart : frameRun c FrameState.waiting stray = (searching stray, List.replicate stray.length .none) :=
    frameRun_stray c hpos hstray
  rw [hbytes, frameRun_append, frameRun_append, hstart, hfound, frameRun_afterTag c len (checksum data) data h]
  simp [verdict, List.replicate_append_replicate, ← List.append_assoc, Nat.add_assoc]

end Tag

/-- From an empty window a polled message is heard as its one event (rules R211, R288). -/
theorem frameHeard_message (s : State) (hinv : s.Inv) (hframe : s.frame = FrameState.waiting)
    (htag : ∀ n, tagNibbles s.cfg.toConfig ≠ List.replicate (2 * s.cfg.tagLen) n) (len : Byte) (data : List Byte)
    (hlen : data.length = len.toNat) (polls : Nat) (hpolls : s.cfg.cycleThreshold ≤ polls) :
    ∃ k, frameHeard s (markReadings polls (symbolsOf (playMessage s.cfg.toConfig len data).1)) =
      (FrameState.waiting, List.replicate k .none ++ [.message data]) := by
  obtain ⟨stray, hstray, hnibbles⟩ := heardNibbles_message s hinv len data polls hpolls
  rw [frameHeard, hnibbles, hframe]
  exact frameRun_message s.cfg.toConfig s.cfg.tagLen_pos htag hstray len data hlen

theorem filterMap_toSink_message (k : Nat) (data : List Byte) :
    (List.replicate k FrameEvent.none ++ [FrameEvent.message data]).filterMap FrameEvent.toSink =
      [(EventCode.message, BitVec.ofNat 8 data.length, data)] := by
  rw [List.filterMap_append, List.filterMap_replicate_of_none rfl]
  rfl

/-! ### The snapshots of a session -/

/-- The snapshots of Symbols polled `polls` times each. -/
def markSnapshots (polls : Nat) (snap : Nat → List Nat) (syms : List Nat) : List (List Nat) :=
  syms.flatMap fun r => List.replicate polls (snap r)

theorem forall_mem_markSnapshots {polls : Nat} {snap : Nat → List Nat} {syms : List Nat} {P : List Nat → Prop}
    (h : ∀ r ∈ syms, P (snap r)) : ∀ mag ∈ markSnapshots polls snap syms, P mag := by
  intro mag hmag
  obtain ⟨r, hr, hmem⟩ := List.mem_flatMap.mp hmag
  exact List.eq_of_mem_replicate hmem ▸ h r hr

theorem map_pollCommand_markSnapshots (polls : Nat) (snap : Nat → List Nat) (syms : List Nat) :
    (markSnapshots polls snap syms).map pollCommand =
      syms.flatMap fun r => List.replicate polls (pollCommand (snap r)) := by
  simp only [markSnapshots, List.map_flatMap, List.map_replicate]

/-- Snapshots that read as their Symbol give the readings of its Marks. -/
theorem map_pick_markSnapshots (c : Config) (polls : Nat) (snap : Nat → List Nat) (syms : List Nat)
    (h : ∀ r ∈ syms, pick c (snap r) = some r) :
    (markSnapshots polls snap syms).map (pick c) = markReadings polls syms := by
  simp only [markSnapshots, List.map_flatMap, List.map_replicate]
  exact List.flatMap_congr fun r hr => by rw [h r hr]

/-- Settles O58: the polls' readings are the message's Symbols, so framing hears its bytes after at most one stray
nibble and gives their one event to the sink. -/
theorem transmittedMessageIsReceived : Obligations.TransmittedMessageIsReceived := by
  intro s data polls snap hinv hframe hdata htag hpolls hsnap hport
  have hlen : data.length = (BitVec.ofNat 8 data.length).toNat :=
    (Nat.mod_eq_of_lt (Nat.lt_succ_of_le hdata)).symm
  have hreads (r : Nat) (hr : r ∈ symbolsOf (playMessage s.cfg.toConfig (BitVec.ofNat 8 data.length) data).1) :=
    hsnap r (mem_symbolsOf_scheduleMarks_lt s.cfg ⟨0, 0⟩ _ r hr)
  have hcommands := hport.trans (map_pollCommand_markSnapshots polls snap _).symm
  obtain ⟨t, rs, hrun, htport, htmod, htframe, htsink⟩ := transcript_polls s _ hcommands
    (forall_mem_markSnapshots fun r hr => (hreads r hr).1)
  obtain ⟨k, hheard⟩ := frameHeard_message s hinv hframe htag _ data hlen polls hpolls
  rw [map_pick_markSnapshots s.cfg.toConfig polls snap _ fun r hr => (hreads r hr).2, hheard] at htframe htsink
  refine ⟨t, rs, ?_, htsink.trans (filterMap_toSink_message k data), htframe, htport, htmod⟩
  rw [hcommands, List.length_map]
  exact hrun

end Sys2Proof.Machine
